-- ==== Sys2Proof/Word.lean ====
section
/-! DEFINITION. The byte, and byte lists read as one number.

The block has no word wider than a byte in its buffers (20_memory.md R54); a command on the command port
is wider, and is carried as a list of bytes, the least significant first. -/

namespace Sys2Proof

/-- Eight bits; bit 7 is the most significant (00_scope.md R10). -/
abbrev Byte := BitVec 8

end Sys2Proof
end

