-- ==== Sys2Proof/Config.lean ====
section
/-! DEFINITION. What an instance of the block fixes at construction, and the values the spec leaves open.

An opaque constant below has no body, so nothing can evaluate it and no proof can learn a value of it: a
theorem that mentions it holds whatever the value is. The parameters the spec gives a value (the KNX codes,
FLOAT16_TIES, FLOAT16_SCALE, APCI_TABLE ...) stand in Machine/Params.lean. -/

namespace Sys2Proof

/-- TG_CAPACITY: bytes in one telegram buffer (00_scope.md R9, 10_state.md R21). -/
abbrev Config.tgCapacity : Nat := 23

/-- HEADER_SIZE: bytes before the payload (00_scope.md R9, 30_encoding.md R70). -/
abbrev Config.headerSize : Nat := 6

/-- LISTEN_MAX: entries of the listen set (00_scope.md R9, 10_state.md R26). -/
abbrev Config.listenMax : Nat := 48

/-- INITIAL_OWN_ADDR, marked OPEN in 00_scope.md R9: the own address the block is constructed with (log 3). -/
opaque Config.initialOwnAddr : BitVec 16

/-- What the channel's receive queue holds at reset: any finite byte sequence (10_state.md R36,
93_implementation_defined.md I11; log 4). -/
opaque Config.initialRxq : List Byte

/-- READ_TIMEOUT, a duration in any unit: fixed at construction, read by no operation (10_state.md R31; log 5). -/
opaque Config.readTimeout : Nat

/-- INTERFRAME_DELAY, a duration that may be zero: fixed at construction, read by no operation (10_state.md R31;
log 5). -/
opaque Config.interframeDelay : Nat

/-- The channel's answer to the `k`-th bounded read of an empty queue that no turn of the environment answers:
a byte, or nothing before READ_TIMEOUT (44_framer.md R197, 93_implementation_defined.md I14; log 6). -/
opaque Config.channelAnswer : Nat → Option Byte

/-- The free values a draw takes (00_scope.md R11 `draw`, 43_datapoint.md R168; log 7). -/
opaque Config.freeByte : Nat → Byte

end Sys2Proof
end

