-- ==== Sys2Proof/Syntax.lean ====
section
/-! DEFINITION. The whole instruction table as one inductive: a constructor per row of spec/opcode_table.json.

The table has five formats. `cmd` rows are the 64 commands of the command port (30_encoding.md R91); `rx-ctl` rows
the control bytes the block recognises on the receive channel (R87); `tx-ctl` rows the bytes it writes (R88);
`apci4` and `apci10` rows the application commands of a telegram (R84). Operands are exactly as wide as the
fields they fill (R90), so a command cannot carry a value its field cannot hold. -/

namespace Sys2Proof

/-- The two telegram buffers (10_state.md R21): `incoming` is IN (SEL = 0), `reply` is RPL (SEL = 1). -/
inductive Buf where
  | incoming
  | reply
  deriving DecidableEq, Repr

/-- The application commands DECODE_APP_COMMAND can name (30_encoding.md R82). -/
inductive AppCommand where
  | unknown
  | groupRead
  | groupResponse
  | groupWrite
  | individualAddrWrite
  | individualAddrRead
  | individualAddrResponse
  | memoryRead
  | memoryResponse
  | memoryWrite
  | deviceDescriptorRead
  | deviceDescriptorResponse
  | restart
  | authorizeRequest
  | authorizeResponse
  | propertyRead
  | propertyResponse
  | propertyWrite
  deriving DecidableEq, Repr

/-- Every row of the opcode table. -/
inductive Instr where
  -- the command port (30_encoding.md R91), in OP order
  | clear (sel : Buf)
  | getByte (sel : Buf) (idx : BitVec 5)
  | setByte (sel : Buf) (idx : BitVec 5) (val : Byte)
  | getTotalLength (sel : Buf)
  | setPayloadLength (sel : Buf) (n : BitVec 5)
  | getPayloadLength (sel : Buf)
  | setRepeated (sel : Buf) (r : BitVec 1)
  | isRepeated (sel : Buf)
  | setPriority (sel : Buf) (p : BitVec 2)
  | getPriority (sel : Buf)
  | setSourceAddress (sel : Buf) (area line : BitVec 4) (member : Byte)
  | getSourceAddress (sel : Buf)
  | setTargetGroup (sel : Buf) (main : BitVec 5) (middle : BitVec 3) (sub : Byte)
  | getTargetGroup (sel : Buf)
  | setTargetIndividual (sel : Buf) (area line : BitVec 4) (member : Byte)
  | getTargetIndividual (sel : Buf)
  | setTargetType (sel : Buf) (g : BitVec 1)
  | isTargetGroup (sel : Buf)
  | setRoutingCounter (sel : Buf) (rc : BitVec 3)
  | getRoutingCounter (sel : Buf)
  | setCommType (sel : Buf) (ct : BitVec 2)
  | getCommType (sel : Buf)
  | setSequenceNumber (sel : Buf) (sn : BitVec 4)
  | getSequenceNumber (sel : Buf)
  | setControlData (sel : Buf) (cd : BitVec 2)
  | getControlData (sel : Buf)
  | setCommand (sel : Buf) (c : BitVec 4)
  | getCommand (sel : Buf)
  | setExtendedCommand (sel : Buf) (x : BitVec 6)
  | getExtendedCommand (sel : Buf)
  | setFirstDataByte (sel : Buf) (d : BitVec 6)
  | getFirstDataByte (sel : Buf)
  | decodeAppCommand (sel : Buf)
  | calcChecksum (sel : Buf)
  | createChecksum (sel : Buf)
  | verifyChecksum (sel : Buf)
  | getChecksum (sel : Buf)
  | getBool (sel : Buf)
  | set1ByteInt (sel : Buf) (v : Byte)
  | get1ByteInt (sel : Buf)
  | set2ByteFloat (sel : Buf) (f : BitVec 32)
  | get2ByteFloat (sel : Buf)
  | set4ByteFloat (sel : Buf) (f : BitVec 32)
  | get4ByteFloat (sel : Buf)
  | set14ByteText (sel : Buf) (t : Vector Byte 14)
  | get14ByteText (sel : Buf)
  | setTime (sel : Buf) (wd : BitVec 3) (h : BitVec 5) (mi sec : BitVec 6)
  | getTime (sel : Buf)
  | isFrameStart (b : Byte)
  | classifyByte (b : Byte)
  | readByteTimeout
  | sendFrame (sel : Buf)
  | sendAck
  | sendNotAddressed
  | pollEvent
  | getRxStatus
  | setOwnAddress (area line : BitVec 4) (member : Byte)
  | getOwnAddress
  | addListenGroup (main : BitVec 5) (middle : BitVec 3) (sub : Byte)
  | isListeningGroup (main : BitVec 5) (middle : BitVec 3) (sub : Byte)
  | getListenCount
  | setListenBroadcast (b : BitVec 1)
  | getListenBroadcast
  | isOfInterest (sel : Buf)
  -- control bytes on the receive channel (30_encoding.md R87)
  | rxFrameStart (notRepeated : BitVec 1) (priority : BitVec 2)
  | rxResetIndication
  | rxPositiveConfirmation
  | rxNegativeConfirmation
  -- bytes the block writes (30_encoding.md R88); `i` is the 0-based telegram byte index
  | txTagContinue (i : BitVec 6)
  | txTagEnd (i : BitVec 6)
  | txAck
  | txNotAddressed
  -- 4-bit application commands (30_encoding.md R84); `data6` is byte 7 bits 5 to 0, not part of the match
  | apciGroupRead (data6 : BitVec 6)
  | apciGroupResponse (data6 : BitVec 6)
  | apciGroupWrite (data6 : BitVec 6)
  | apciIndividualAddrWrite (data6 : BitVec 6)
  | apciIndividualAddrRead (data6 : BitVec 6)
  | apciIndividualAddrResponse (data6 : BitVec 6)
  | apciMemoryRead (data6 : BitVec 6)
  | apciMemoryResponse (data6 : BitVec 6)
  | apciMemoryWrite (data6 : BitVec 6)
  | apciDeviceDescriptorRead (data6 : BitVec 6)
  | apciDeviceDescriptorResponse (data6 : BitVec 6)
  | apciRestart (data6 : BitVec 6)
  -- 10-bit application commands (30_encoding.md R84)
  | apciAuthorizeRequest
  | apciAuthorizeResponse
  | apciPropertyRead
  | apciPropertyResponse
  | apciPropertyWrite
  deriving DecidableEq, Repr

end Sys2Proof
end

