-- ==== Sys2Proof/Machine/Params.lean ====
section
/-! DEFINITION. The parameters the spec gives a value, and the byte constants of the wire.

Log 15 names those whose value the spec takes from its knowledge of KNX. -/

namespace Sys2Proof.Machine

/-- RESET_IND_BYTE (00_scope.md R9, 44_framer.md R191). -/
def resetIndByte : Byte := 0x03#8
/-- The confirmation bytes (44_framer.md R203). -/
def positiveConfirmation : Byte := 0x8B#8
def negativeConfirmation : Byte := 0x0B#8
/-- The acknowledgement bytes (44_framer.md R206, R207). -/
def ackByte : Byte := 0x11#8
def notAddressedByte : Byte := 0x10#8
/-- The bits a frame start may have either way (repeat, priority) and the pattern they are forced to
(44_framer.md R190). -/
def frameStartFree : Byte := 0x2C#8
def frameStartPattern : Byte := 0xBC#8
/-- Send tags before the index is OR'd in (44_framer.md R202). -/
def tagContinueBase : Byte := 0x80#8
def tagEndBase : Byte := 0x40#8

/-- Byte `i` of the telegram CLEAR writes (41_codec_fields.md R100): control octet not repeated and NORMAL,
byte 5 group target, routing counter 6 (ROUTING_COUNTER_DEFAULT) and stored length 1. -/
def clearByte (i : Nat) : Byte :=
  if i = 0 then 0xBC#8 else if i = 5 then 0xE1#8 else 0x00#8

/-- FLOAT16_TIES (00_scope.md R9; log 14): where a halfway mantissa goes. -/
inductive Ties where
  | away
  | even
  deriving DecidableEq, Repr

/-- FLOAT16_SCALE (00_scope.md R9; log 14): the product by 100, exact or rounded to binary32. -/
inductive Scale where
  | exact
  | binary32
  deriving DecidableEq, Repr

def float16Ties : Ties := .away
def float16Scale : Scale := .exact

/-- A row of APCI_TABLE (30_encoding.md R84): the 4-bit command, the 6 bits that must follow a 10-bit one, the name. -/
structure ApciRow where
  cmd4 : BitVec 4
  ext6 : Option (BitVec 6)
  name : AppCommand
  deriving DecidableEq, Repr

/-- APCI_TABLE (30_encoding.md R84), in the order of the spec. -/
def apciTable : List ApciRow :=
  [⟨0b0000#4, none, .groupRead⟩,
   ⟨0b0001#4, none, .groupResponse⟩,
   ⟨0b0010#4, none, .groupWrite⟩,
   ⟨0b0011#4, none, .individualAddrWrite⟩,
   ⟨0b0100#4, none, .individualAddrRead⟩,
   ⟨0b0101#4, none, .individualAddrResponse⟩,
   ⟨0b1000#4, none, .memoryRead⟩,
   ⟨0b1001#4, none, .memoryResponse⟩,
   ⟨0b1010#4, none, .memoryWrite⟩,
   ⟨0b1100#4, none, .deviceDescriptorRead⟩,
   ⟨0b1101#4, none, .deviceDescriptorResponse⟩,
   ⟨0b1110#4, none, .restart⟩] ++
  [⟨0b1111#4, some 0b010001#6, .authorizeRequest⟩,
   ⟨0b1111#4, some 0b010010#6, .authorizeResponse⟩,
   ⟨0b1111#4, some 0b010101#6, .propertyRead⟩,
   ⟨0b1111#4, some 0b010110#6, .propertyResponse⟩,
   ⟨0b1111#4, some 0b010111#6, .propertyWrite⟩]

/-- Whether a row names this command: 4 bits decide, or all 10 where the row has an extension (30_encoding.md R81). -/
def apciMatches (c : BitVec 4) (x : BitVec 6) (r : ApciRow) : Bool :=
  r.cmd4 == c && (match r.ext6 with | none => true | some e => e == x)

/-- The name of an application command; every code outside the table is UNKNOWN (30_encoding.md R85). -/
def appCommandOf (c : BitVec 4) (x : BitVec 6) : AppCommand :=
  match apciTable.find? (apciMatches c x) with
  | some r => r.name
  | none => .unknown

/-- The 5-bit result code of an application command (30_encoding.md R82). -/
def appCommandCode : AppCommand → BitVec 5
  | .unknown => 0#5
  | .groupRead => 1#5
  | .groupResponse => 2#5
  | .groupWrite => 3#5
  | .individualAddrWrite => 4#5
  | .individualAddrRead => 5#5
  | .individualAddrResponse => 6#5
  | .memoryRead => 7#5
  | .memoryResponse => 8#5
  | .memoryWrite => 9#5
  | .deviceDescriptorRead => 10#5
  | .deviceDescriptorResponse => 11#5
  | .restart => 12#5
  | .authorizeRequest => 13#5
  | .authorizeResponse => 14#5
  | .propertyRead => 15#5
  | .propertyResponse => 16#5
  | .propertyWrite => 17#5

/-- Whether a byte begins a telegram (44_framer.md R190). -/
def isFrameStartByte (b : Byte) : Bool := (b ||| frameStartFree) == frameStartPattern

/-- The send tag of byte `i` when more follow, and of the last byte (44_framer.md R202). -/
def tagContinue (i : BitVec 6) : Byte := tagContinueBase ||| i.setWidth 8
def tagEnd (i : BitVec 6) : Byte := tagEndBase ||| i.setWidth 8

/-- The frame-start byte with a given repeat bit and priority (30_encoding.md R71, R87). -/
def frameStartByte (notRepeated : BitVec 1) (priority : BitVec 2) : Byte :=
  0x90#8 ||| (notRepeated.setWidth 8 <<< 5) ||| (priority.setWidth 8 <<< 2)

end Sys2Proof.Machine
end

