-- ==== Sys2Proof/WellFormed.lean ====
section
/-! DEFINITION. Which instruction terms the table's rows allow.

Every operand is exactly as wide as its field (30_encoding.md R90), so most terms are well formed by their type.
The two send tags carry a 6-bit index of which only a part names a byte that can be sent so (30_encoding.md R88):
every byte but the last of a telegram of at most 23 bytes, and the last byte of one of 8 to 23. A command whose
operand is out of its contract (GET_BYTE of index 23) is well formed: the block refuses it when it is issued
(30_encoding.md R92, 60_exceptions.md R253, R254). -/

namespace Sys2Proof

/-- The range of the index operand of the row, and nothing else. -/
def Instr.wellFormed : Instr → Bool
  | .clear _ => true
  | .getByte _ _ => true
  | .setByte _ _ _ => true
  | .getTotalLength _ => true
  | .setPayloadLength _ _ => true
  | .getPayloadLength _ => true
  | .setRepeated _ _ => true
  | .isRepeated _ => true
  | .setPriority _ _ => true
  | .getPriority _ => true
  | .setSourceAddress _ _ _ _ => true
  | .getSourceAddress _ => true
  | .setTargetGroup _ _ _ _ => true
  | .getTargetGroup _ => true
  | .setTargetIndividual _ _ _ _ => true
  | .getTargetIndividual _ => true
  | .setTargetType _ _ => true
  | .isTargetGroup _ => true
  | .setRoutingCounter _ _ => true
  | .getRoutingCounter _ => true
  | .setCommType _ _ => true
  | .getCommType _ => true
  | .setSequenceNumber _ _ => true
  | .getSequenceNumber _ => true
  | .setControlData _ _ => true
  | .getControlData _ => true
  | .setCommand _ _ => true
  | .getCommand _ => true
  | .setExtendedCommand _ _ => true
  | .getExtendedCommand _ => true
  | .setFirstDataByte _ _ => true
  | .getFirstDataByte _ => true
  | .decodeAppCommand _ => true
  | .calcChecksum _ => true
  | .createChecksum _ => true
  | .verifyChecksum _ => true
  | .getChecksum _ => true
  | .getBool _ => true
  | .set1ByteInt _ _ => true
  | .get1ByteInt _ => true
  | .set2ByteFloat _ _ => true
  | .get2ByteFloat _ => true
  | .set4ByteFloat _ _ => true
  | .get4ByteFloat _ => true
  | .set14ByteText _ _ => true
  | .get14ByteText _ => true
  | .setTime _ _ _ _ _ => true
  | .getTime _ => true
  | .isFrameStart _ => true
  | .classifyByte _ => true
  | .readByteTimeout => true
  | .sendFrame _ => true
  | .sendAck => true
  | .sendNotAddressed => true
  | .pollEvent => true
  | .getRxStatus => true
  | .setOwnAddress _ _ _ => true
  | .getOwnAddress => true
  | .addListenGroup _ _ _ => true
  | .isListeningGroup _ _ _ => true
  | .getListenCount => true
  | .setListenBroadcast _ => true
  | .getListenBroadcast => true
  | .isOfInterest _ => true
  | .rxFrameStart _ _ => true
  | .rxResetIndication => true
  | .rxPositiveConfirmation => true
  | .rxNegativeConfirmation => true
  | .txTagContinue i => decide (i.toNat ≤ 21)
  | .txTagEnd i => decide (7 ≤ i.toNat) && decide (i.toNat ≤ 22)
  | .txAck => true
  | .txNotAddressed => true
  | .apciGroupRead _ => true
  | .apciGroupResponse _ => true
  | .apciGroupWrite _ => true
  | .apciIndividualAddrWrite _ => true
  | .apciIndividualAddrRead _ => true
  | .apciIndividualAddrResponse _ => true
  | .apciMemoryRead _ => true
  | .apciMemoryResponse _ => true
  | .apciMemoryWrite _ => true
  | .apciDeviceDescriptorRead _ => true
  | .apciDeviceDescriptorResponse _ => true
  | .apciRestart _ => true
  | .apciAuthorizeRequest => true
  | .apciAuthorizeResponse => true
  | .apciPropertyRead => true
  | .apciPropertyResponse => true
  | .apciPropertyWrite => true

end Sys2Proof
end

