-- ==== Sys2Proof/Decode.lean ====
section
/-! DEFINITION. Words into instructions and back.

The block has four separate places a word can stand, and the same bits mean different things in them
(30_encoding.md: the command port, the two directions of the channel, the application-control field), so a word is
decoded IN a space. The command port's layout above OP is the model's (log 10): the word is 16 bytes, least
significant first; bits 5 to 0 are OP, bit 8 is SEL, the operands of the row follow from bit 16 upwards, the first
operand lowest. Bits 7, 6 and 15 to 9 are no line of the port; operand bits above those of the row are ignored, as SEL
is by the rows that name no buffer. A byte of the channel is one byte. An application command is its 10-bit
apci10 (30_encoding.md R78) in two bytes, least significant first. -/

namespace Sys2Proof

/-- Where a word stands. -/
inductive Space where
  /-- the command port (30_encoding.md R90) -/
  | command
  /-- the receive direction of the channel (30_encoding.md R87) -/
  | receive
  /-- the transmit direction of the channel (30_encoding.md R88) -/
  | transmit
  /-- the application-control field of a telegram (30_encoding.md R78) -/
  | apci
  deriving DecidableEq, Repr

/-- Why a word is no instruction. -/
inductive DecodeError where
  /-- not as many bytes as a word of the space has -/
  | wrongLength
  /-- a bit is set that is no line of the command port, or a bit above the ten of an application command -/
  | unassignedBits
  /-- a received byte that is no control byte (30_encoding.md R87) -/
  | notAControlByte
  /-- a byte the block never writes on its own account (30_encoding.md R88) -/
  | notASendByte
  /-- an application code outside APCI_TABLE (30_encoding.md R85) -/
  | unmappedApci
  deriving DecidableEq, Repr

/-- The low `n` bytes of a number, least significant first. -/
def leBytes : Nat → Nat → List Byte
  | 0, _ => []
  | n + 1, w => BitVec.ofNat 8 w :: leBytes n (w / 256)

/-- The number a byte list stands for, least significant byte first. -/
def ofLeBytes : List Byte → Nat
  | [] => 0
  | b :: r => b.toNat + 256 * ofLeBytes r

/-- The 14 bytes of a text operand, `t[0]` in the lowest 8 bits. -/
def textOperand (x : Nat) : Vector Byte 14 :=
  #v[BitVec.ofNat 8 x, BitVec.ofNat 8 (x / 2 ^ 8), BitVec.ofNat 8 (x / 2 ^ 16), BitVec.ofNat 8 (x / 2 ^ 24),
    BitVec.ofNat 8 (x / 2 ^ 32), BitVec.ofNat 8 (x / 2 ^ 40), BitVec.ofNat 8 (x / 2 ^ 48), BitVec.ofNat 8 (x / 2 ^ 56),
    BitVec.ofNat 8 (x / 2 ^ 64), BitVec.ofNat 8 (x / 2 ^ 72), BitVec.ofNat 8 (x / 2 ^ 80), BitVec.ofNat 8 (x / 2 ^ 88),
    BitVec.ofNat 8 (x / 2 ^ 96), BitVec.ofNat 8 (x / 2 ^ 104)]

/-- SEL: 0 = IN, 1 = RPL (30_encoding.md R90). -/
def bufOfSel (b : Nat) : Buf := if b = 0 then .incoming else .reply
def selOfBuf : Buf → Nat
  | .incoming => 0
  | .reply => 1

/-- The command with a given OP, buffer and operand bits (30_encoding.md R91); all 64 values of OP are assigned
(R92), and OP is 6 bits wide, so the last arm is 0x3F. -/
def commandOf (op : Nat) (s : Buf) (x : Nat) : Instr :=
  match op with
  | 0x00 => .clear s
  | 0x01 => .getByte s (BitVec.ofNat 5 x)
  | 0x02 => .setByte s (BitVec.ofNat 5 x) (BitVec.ofNat 8 (x / 2 ^ 5))
  | 0x03 => .getTotalLength s
  | 0x04 => .setPayloadLength s (BitVec.ofNat 5 x)
  | 0x05 => .getPayloadLength s
  | 0x06 => .setRepeated s (BitVec.ofNat 1 x)
  | 0x07 => .isRepeated s
  | 0x08 => .setPriority s (BitVec.ofNat 2 x)
  | 0x09 => .getPriority s
  | 0x0A => .setSourceAddress s (BitVec.ofNat 4 x) (BitVec.ofNat 4 (x / 2 ^ 4)) (BitVec.ofNat 8 (x / 2 ^ 8))
  | 0x0B => .getSourceAddress s
  | 0x0C => .setTargetGroup s (BitVec.ofNat 5 x) (BitVec.ofNat 3 (x / 2 ^ 5)) (BitVec.ofNat 8 (x / 2 ^ 8))
  | 0x0D => .getTargetGroup s
  | 0x0E => .setTargetIndividual s (BitVec.ofNat 4 x) (BitVec.ofNat 4 (x / 2 ^ 4)) (BitVec.ofNat 8 (x / 2 ^ 8))
  | 0x0F => .getTargetIndividual s
  | 0x10 => .setTargetType s (BitVec.ofNat 1 x)
  | 0x11 => .isTargetGroup s
  | 0x12 => .setRoutingCounter s (BitVec.ofNat 3 x)
  | 0x13 => .getRoutingCounter s
  | 0x14 => .setCommType s (BitVec.ofNat 2 x)
  | 0x15 => .getCommType s
  | 0x16 => .setSequenceNumber s (BitVec.ofNat 4 x)
  | 0x17 => .getSequenceNumber s
  | 0x18 => .setControlData s (BitVec.ofNat 2 x)
  | 0x19 => .getControlData s
  | 0x1A => .setCommand s (BitVec.ofNat 4 x)
  | 0x1B => .getCommand s
  | 0x1C => .setExtendedCommand s (BitVec.ofNat 6 x)
  | 0x1D => .getExtendedCommand s
  | 0x1E => .setFirstDataByte s (BitVec.ofNat 6 x)
  | 0x1F => .getFirstDataByte s
  | 0x20 => .decodeAppCommand s
  | 0x21 => .calcChecksum s
  | 0x22 => .createChecksum s
  | 0x23 => .verifyChecksum s
  | 0x24 => .getChecksum s
  | 0x25 => .getBool s
  | 0x26 => .set1ByteInt s (BitVec.ofNat 8 x)
  | 0x27 => .get1ByteInt s
  | 0x28 => .set2ByteFloat s (BitVec.ofNat 32 x)
  | 0x29 => .get2ByteFloat s
  | 0x2A => .set4ByteFloat s (BitVec.ofNat 32 x)
  | 0x2B => .get4ByteFloat s
  | 0x2C => .set14ByteText s (textOperand x)
  | 0x2D => .get14ByteText s
  | 0x2E => .setTime s (BitVec.ofNat 3 x) (BitVec.ofNat 5 (x / 2 ^ 3)) (BitVec.ofNat 6 (x / 2 ^ 8)) (BitVec.ofNat 6 (x / 2 ^ 14))
  | 0x2F => .getTime s
  | 0x30 => .isFrameStart (BitVec.ofNat 8 x)
  | 0x31 => .classifyByte (BitVec.ofNat 8 x)
  | 0x32 => .readByteTimeout
  | 0x33 => .sendFrame s
  | 0x34 => .sendAck
  | 0x35 => .sendNotAddressed
  | 0x36 => .pollEvent
  | 0x37 => .getRxStatus
  | 0x38 => .setOwnAddress (BitVec.ofNat 4 x) (BitVec.ofNat 4 (x / 2 ^ 4)) (BitVec.ofNat 8 (x / 2 ^ 8))
  | 0x39 => .getOwnAddress
  | 0x3A => .addListenGroup (BitVec.ofNat 5 x) (BitVec.ofNat 3 (x / 2 ^ 5)) (BitVec.ofNat 8 (x / 2 ^ 8))
  | 0x3B => .isListeningGroup (BitVec.ofNat 5 x) (BitVec.ofNat 3 (x / 2 ^ 5)) (BitVec.ofNat 8 (x / 2 ^ 8))
  | 0x3C => .getListenCount
  | 0x3D => .setListenBroadcast (BitVec.ofNat 1 x)
  | 0x3E => .getListenBroadcast
  | _ => .isOfInterest s

/-- A word of the command port. SEL is ignored by the rows that name no buffer (30_encoding.md R90). -/
def decodeCommand (w : Nat) : Except DecodeError Instr :=
  if w / 64 % 4 = 0 ∧ w / 512 % 128 = 0 then
    .ok (commandOf (w % 64) (bufOfSel (w / 256 % 2)) (w / 65536))
  else .error .unassignedBits

/-- A received byte (30_encoding.md R87): the three fixed bytes, then the frame-start set. -/
def decodeReceive (b : Byte) : Except DecodeError Instr :=
  if b = Machine.resetIndByte then .ok .rxResetIndication
  else if b = Machine.positiveConfirmation then .ok .rxPositiveConfirmation
  else if b = Machine.negativeConfirmation then .ok .rxNegativeConfirmation
  else if Machine.isFrameStartByte b then .ok (.rxFrameStart (b.extractLsb' 5 1) (b.extractLsb' 2 2))
  else .error .notAControlByte

/-- A byte the block writes (30_encoding.md R88): the two acknowledgements, then the tags by their top bits. -/
def decodeTransmit (b : Byte) : Except DecodeError Instr :=
  if b = Machine.ackByte then .ok .txAck
  else if b = Machine.notAddressedByte then .ok .txNotAddressed
  else if b.extractLsb' 6 2 = 0b10#2 then .ok (.txTagContinue (b.extractLsb' 0 6))
  else if b.extractLsb' 6 2 = 0b01#2 then .ok (.txTagEnd (b.extractLsb' 0 6))
  else .error .notASendByte

/-- The row of an application command by its name; UNKNOWN has none. -/
def apciInstr (x : BitVec 6) : AppCommand → Except DecodeError Instr
  | .unknown => .error .unmappedApci
  | .groupRead => .ok (.apciGroupRead x)
  | .groupResponse => .ok (.apciGroupResponse x)
  | .groupWrite => .ok (.apciGroupWrite x)
  | .individualAddrWrite => .ok (.apciIndividualAddrWrite x)
  | .individualAddrRead => .ok (.apciIndividualAddrRead x)
  | .individualAddrResponse => .ok (.apciIndividualAddrResponse x)
  | .memoryRead => .ok (.apciMemoryRead x)
  | .memoryResponse => .ok (.apciMemoryResponse x)
  | .memoryWrite => .ok (.apciMemoryWrite x)
  | .deviceDescriptorRead => .ok (.apciDeviceDescriptorRead x)
  | .deviceDescriptorResponse => .ok (.apciDeviceDescriptorResponse x)
  | .restart => .ok (.apciRestart x)
  | .authorizeRequest => .ok .apciAuthorizeRequest
  | .authorizeResponse => .ok .apciAuthorizeResponse
  | .propertyRead => .ok .apciPropertyRead
  | .propertyResponse => .ok .apciPropertyResponse
  | .propertyWrite => .ok .apciPropertyWrite

/-- A 10-bit application command: 4 bits decide it, or all 10 after the escape (30_encoding.md R81). -/
def decodeApci (w : Nat) : Except DecodeError Instr :=
  if w < 1024 then
    apciInstr (BitVec.ofNat 6 w) (Machine.appCommandOf (BitVec.ofNat 4 (w / 64)) (BitVec.ofNat 6 w))
  else .error .unassignedBits

/-- The decoder: any bytes, in a space, to an instruction or the reason there is none. -/
def decode (p : Space) (bytes : List Byte) : Except DecodeError Instr :=
  match p with
  | .command => if bytes.length = 16 then decodeCommand (ofLeBytes bytes) else .error .wrongLength
  | .receive => match bytes with
    | [b] => decodeReceive b
    | _ => .error .wrongLength
  | .transmit => match bytes with
    | [b] => decodeTransmit b
    | _ => .error .wrongLength
  | .apci => if bytes.length = 2 then decodeApci (ofLeBytes bytes) else .error .wrongLength

/-- A word of the command port from its parts. -/
def commandWord (op sel operands : Nat) : List Byte := leBytes 16 (op + 256 * sel + 65536 * operands)

/-- A word of the application-control field from its parts (30_encoding.md R78). -/
def apciWord (cmd4 ext6 : Nat) : List Byte := leBytes 2 (64 * cmd4 + ext6)

/-- The operand bits of a text, `t[0]` lowest. -/
def textBits (t : Vector Byte 14) : Nat :=
  t[0].toNat + 2 ^ 8 * t[1].toNat + 2 ^ 16 * t[2].toNat + 2 ^ 24 * t[3].toNat + 2 ^ 32 * t[4].toNat +
    2 ^ 40 * t[5].toNat + 2 ^ 48 * t[6].toNat + 2 ^ 56 * t[7].toNat + 2 ^ 64 * t[8].toNat + 2 ^ 72 * t[9].toNat +
    2 ^ 80 * t[10].toNat + 2 ^ 88 * t[11].toNat + 2 ^ 96 * t[12].toNat + 2 ^ 104 * t[13].toNat

/-- A word where it stands, exactly as wide as its place is: what the host issues on the command port, a byte of the
channel, an application command. -/
inductive Issued where
  /-- `(OP, SEL, operands)` (30_encoding.md R90); the operand lines are as many as the widest row has -/
  | command (op : BitVec 6) (sel : BitVec 1) (operands : BitVec 112)
  | receive (b : Byte)
  | transmit (b : Byte)
  /-- `apci10` (30_encoding.md R78) -/
  | apci (w : BitVec 10)
  deriving DecidableEq, Repr

/-- The space of a word. -/
def Issued.space : Issued → Space
  | .command _ _ _ => .command
  | .receive _ => .receive
  | .transmit _ => .transmit
  | .apci _ => .apci

/-- The bytes of a word, as the decoder reads them. -/
def Issued.bytes : Issued → List Byte
  | .command op sel x => commandWord op.toNat sel.toNat x.toNat
  | .receive b => [b]
  | .transmit b => [b]
  | .apci w => leBytes 2 w.toNat

/-- The space an instruction's word stands in. -/
def Instr.space : Instr → Space
  | .clear _ => .command
  | .getByte _ _ => .command
  | .setByte _ _ _ => .command
  | .getTotalLength _ => .command
  | .setPayloadLength _ _ => .command
  | .getPayloadLength _ => .command
  | .setRepeated _ _ => .command
  | .isRepeated _ => .command
  | .setPriority _ _ => .command
  | .getPriority _ => .command
  | .setSourceAddress _ _ _ _ => .command
  | .getSourceAddress _ => .command
  | .setTargetGroup _ _ _ _ => .command
  | .getTargetGroup _ => .command
  | .setTargetIndividual _ _ _ _ => .command
  | .getTargetIndividual _ => .command
  | .setTargetType _ _ => .command
  | .isTargetGroup _ => .command
  | .setRoutingCounter _ _ => .command
  | .getRoutingCounter _ => .command
  | .setCommType _ _ => .command
  | .getCommType _ => .command
  | .setSequenceNumber _ _ => .command
  | .getSequenceNumber _ => .command
  | .setControlData _ _ => .command
  | .getControlData _ => .command
  | .setCommand _ _ => .command
  | .getCommand _ => .command
  | .setExtendedCommand _ _ => .command
  | .getExtendedCommand _ => .command
  | .setFirstDataByte _ _ => .command
  | .getFirstDataByte _ => .command
  | .decodeAppCommand _ => .command
  | .calcChecksum _ => .command
  | .createChecksum _ => .command
  | .verifyChecksum _ => .command
  | .getChecksum _ => .command
  | .getBool _ => .command
  | .set1ByteInt _ _ => .command
  | .get1ByteInt _ => .command
  | .set2ByteFloat _ _ => .command
  | .get2ByteFloat _ => .command
  | .set4ByteFloat _ _ => .command
  | .get4ByteFloat _ => .command
  | .set14ByteText _ _ => .command
  | .get14ByteText _ => .command
  | .setTime _ _ _ _ _ => .command
  | .getTime _ => .command
  | .isFrameStart _ => .command
  | .classifyByte _ => .command
  | .readByteTimeout => .command
  | .sendFrame _ => .command
  | .sendAck => .command
  | .sendNotAddressed => .command
  | .pollEvent => .command
  | .getRxStatus => .command
  | .setOwnAddress _ _ _ => .command
  | .getOwnAddress => .command
  | .addListenGroup _ _ _ => .command
  | .isListeningGroup _ _ _ => .command
  | .getListenCount => .command
  | .setListenBroadcast _ => .command
  | .getListenBroadcast => .command
  | .isOfInterest _ => .command
  | .rxFrameStart _ _ => .receive
  | .rxResetIndication => .receive
  | .rxPositiveConfirmation => .receive
  | .rxNegativeConfirmation => .receive
  | .txTagContinue _ => .transmit
  | .txTagEnd _ => .transmit
  | .txAck => .transmit
  | .txNotAddressed => .transmit
  | .apciGroupRead _ => .apci
  | .apciGroupResponse _ => .apci
  | .apciGroupWrite _ => .apci
  | .apciIndividualAddrWrite _ => .apci
  | .apciIndividualAddrRead _ => .apci
  | .apciIndividualAddrResponse _ => .apci
  | .apciMemoryRead _ => .apci
  | .apciMemoryResponse _ => .apci
  | .apciMemoryWrite _ => .apci
  | .apciDeviceDescriptorRead _ => .apci
  | .apciDeviceDescriptorResponse _ => .apci
  | .apciRestart _ => .apci
  | .apciAuthorizeRequest => .apci
  | .apciAuthorizeResponse => .apci
  | .apciPropertyRead => .apci
  | .apciPropertyResponse => .apci
  | .apciPropertyWrite => .apci

/-- The encoder: the bytes of an instruction's word in its space, from the tables of 30_encoding.md R84, R87, R88 and
R91. A SEL that the row ignores is 0. -/
def encode : Instr → List Byte
  | .clear sel => commandWord 0x00 (selOfBuf sel) 0
  | .getByte sel idx => commandWord 0x01 (selOfBuf sel) idx.toNat
  | .setByte sel idx val => commandWord 0x02 (selOfBuf sel) (idx.toNat + 2 ^ 5 * val.toNat)
  | .getTotalLength sel => commandWord 0x03 (selOfBuf sel) 0
  | .setPayloadLength sel n => commandWord 0x04 (selOfBuf sel) n.toNat
  | .getPayloadLength sel => commandWord 0x05 (selOfBuf sel) 0
  | .setRepeated sel r => commandWord 0x06 (selOfBuf sel) r.toNat
  | .isRepeated sel => commandWord 0x07 (selOfBuf sel) 0
  | .setPriority sel p => commandWord 0x08 (selOfBuf sel) p.toNat
  | .getPriority sel => commandWord 0x09 (selOfBuf sel) 0
  | .setSourceAddress sel area line member => commandWord 0x0A (selOfBuf sel) (area.toNat + 2 ^ 4 * line.toNat + 2 ^ 8 * member.toNat)
  | .getSourceAddress sel => commandWord 0x0B (selOfBuf sel) 0
  | .setTargetGroup sel main middle sub => commandWord 0x0C (selOfBuf sel) (main.toNat + 2 ^ 5 * middle.toNat + 2 ^ 8 * sub.toNat)
  | .getTargetGroup sel => commandWord 0x0D (selOfBuf sel) 0
  | .setTargetIndividual sel area line member => commandWord 0x0E (selOfBuf sel) (area.toNat + 2 ^ 4 * line.toNat + 2 ^ 8 * member.toNat)
  | .getTargetIndividual sel => commandWord 0x0F (selOfBuf sel) 0
  | .setTargetType sel g => commandWord 0x10 (selOfBuf sel) g.toNat
  | .isTargetGroup sel => commandWord 0x11 (selOfBuf sel) 0
  | .setRoutingCounter sel rc => commandWord 0x12 (selOfBuf sel) rc.toNat
  | .getRoutingCounter sel => commandWord 0x13 (selOfBuf sel) 0
  | .setCommType sel ct => commandWord 0x14 (selOfBuf sel) ct.toNat
  | .getCommType sel => commandWord 0x15 (selOfBuf sel) 0
  | .setSequenceNumber sel sn => commandWord 0x16 (selOfBuf sel) sn.toNat
  | .getSequenceNumber sel => commandWord 0x17 (selOfBuf sel) 0
  | .setControlData sel cd => commandWord 0x18 (selOfBuf sel) cd.toNat
  | .getControlData sel => commandWord 0x19 (selOfBuf sel) 0
  | .setCommand sel c => commandWord 0x1A (selOfBuf sel) c.toNat
  | .getCommand sel => commandWord 0x1B (selOfBuf sel) 0
  | .setExtendedCommand sel x => commandWord 0x1C (selOfBuf sel) x.toNat
  | .getExtendedCommand sel => commandWord 0x1D (selOfBuf sel) 0
  | .setFirstDataByte sel d => commandWord 0x1E (selOfBuf sel) d.toNat
  | .getFirstDataByte sel => commandWord 0x1F (selOfBuf sel) 0
  | .decodeAppCommand sel => commandWord 0x20 (selOfBuf sel) 0
  | .calcChecksum sel => commandWord 0x21 (selOfBuf sel) 0
  | .createChecksum sel => commandWord 0x22 (selOfBuf sel) 0
  | .verifyChecksum sel => commandWord 0x23 (selOfBuf sel) 0
  | .getChecksum sel => commandWord 0x24 (selOfBuf sel) 0
  | .getBool sel => commandWord 0x25 (selOfBuf sel) 0
  | .set1ByteInt sel v => commandWord 0x26 (selOfBuf sel) v.toNat
  | .get1ByteInt sel => commandWord 0x27 (selOfBuf sel) 0
  | .set2ByteFloat sel f => commandWord 0x28 (selOfBuf sel) f.toNat
  | .get2ByteFloat sel => commandWord 0x29 (selOfBuf sel) 0
  | .set4ByteFloat sel f => commandWord 0x2A (selOfBuf sel) f.toNat
  | .get4ByteFloat sel => commandWord 0x2B (selOfBuf sel) 0
  | .set14ByteText sel t => commandWord 0x2C (selOfBuf sel) (textBits t)
  | .get14ByteText sel => commandWord 0x2D (selOfBuf sel) 0
  | .setTime sel wd h mi sec => commandWord 0x2E (selOfBuf sel) (wd.toNat + 2 ^ 3 * h.toNat + 2 ^ 8 * mi.toNat + 2 ^ 14 * sec.toNat)
  | .getTime sel => commandWord 0x2F (selOfBuf sel) 0
  | .isFrameStart b => commandWord 0x30 0 b.toNat
  | .classifyByte b => commandWord 0x31 0 b.toNat
  | .readByteTimeout => commandWord 0x32 0 0
  | .sendFrame sel => commandWord 0x33 (selOfBuf sel) 0
  | .sendAck => commandWord 0x34 0 0
  | .sendNotAddressed => commandWord 0x35 0 0
  | .pollEvent => commandWord 0x36 0 0
  | .getRxStatus => commandWord 0x37 0 0
  | .setOwnAddress area line member => commandWord 0x38 0 (area.toNat + 2 ^ 4 * line.toNat + 2 ^ 8 * member.toNat)
  | .getOwnAddress => commandWord 0x39 0 0
  | .addListenGroup main middle sub => commandWord 0x3A 0 (main.toNat + 2 ^ 5 * middle.toNat + 2 ^ 8 * sub.toNat)
  | .isListeningGroup main middle sub => commandWord 0x3B 0 (main.toNat + 2 ^ 5 * middle.toNat + 2 ^ 8 * sub.toNat)
  | .getListenCount => commandWord 0x3C 0 0
  | .setListenBroadcast b => commandWord 0x3D 0 b.toNat
  | .getListenBroadcast => commandWord 0x3E 0 0
  | .isOfInterest sel => commandWord 0x3F (selOfBuf sel) 0
  | .rxFrameStart r p => [Machine.frameStartByte r p]
  | .rxResetIndication => [0x03#8]
  | .rxPositiveConfirmation => [0x8B#8]
  | .rxNegativeConfirmation => [0x0B#8]
  | .txTagContinue i => [Machine.tagContinue i]
  | .txTagEnd i => [Machine.tagEnd i]
  | .txAck => [0x11#8]
  | .txNotAddressed => [0x10#8]
  | .apciGroupRead data6 => apciWord 0b0000 data6.toNat
  | .apciGroupResponse data6 => apciWord 0b0001 data6.toNat
  | .apciGroupWrite data6 => apciWord 0b0010 data6.toNat
  | .apciIndividualAddrWrite data6 => apciWord 0b0011 data6.toNat
  | .apciIndividualAddrRead data6 => apciWord 0b0100 data6.toNat
  | .apciIndividualAddrResponse data6 => apciWord 0b0101 data6.toNat
  | .apciMemoryRead data6 => apciWord 0b1000 data6.toNat
  | .apciMemoryResponse data6 => apciWord 0b1001 data6.toNat
  | .apciMemoryWrite data6 => apciWord 0b1010 data6.toNat
  | .apciDeviceDescriptorRead data6 => apciWord 0b1100 data6.toNat
  | .apciDeviceDescriptorResponse data6 => apciWord 0b1101 data6.toNat
  | .apciRestart data6 => apciWord 0b1110 data6.toNat
  | .apciAuthorizeRequest => apciWord 0b1111 0b010001
  | .apciAuthorizeResponse => apciWord 0b1111 0b010010
  | .apciPropertyRead => apciWord 0b1111 0b010101
  | .apciPropertyResponse => apciWord 0b1111 0b010110
  | .apciPropertyWrite => apciWord 0b1111 0b010111

/-! The opcode table numbers each format by itself, so a bare word of it does not say which space it stands in, and
sixteen words are a command's and also a control byte's or a 4-bit application command's (0x03 is GET_TOTAL_LENGTH
on the command port and the reset indication on the channel). A bare word is read here as a command wherever it
can be one (its first byte has no bit above OP), else as a byte of the channel, a word of two bytes as an
application command (log 10). -/

/-- The space a bare table word is read in. -/
def tableSpace (nbits w : Nat) : Space :=
  if w / 64 % 4 = 0 then .command
  else if 8 < nbits then .apci
  else match decodeReceive (BitVec.ofNat 8 w) with
    | .ok _ => .receive
    | .error _ => .transmit

/-- The word a bare table word stands for; bits at and above `nbits` are 0. -/
def tableWord (nbits w : Nat) : Issued :=
  match tableSpace nbits (w % 2 ^ nbits) with
  | .command => .command (BitVec.ofNat 6 w) (BitVec.ofNat 1 (w % 2 ^ nbits / 256)) (BitVec.ofNat 112 (w % 2 ^ nbits / 65536))
  | .receive => .receive (BitVec.ofNat 8 w)
  | .transmit => .transmit (BitVec.ofNat 8 w)
  | .apci => .apci (BitVec.ofNat 10 w)

/-- The instruction the decoder reads from a bare table word. -/
def decodeTableWord (nbits w : Nat) : Option Instr :=
  match decode (tableWord nbits w).space (tableWord nbits w).bytes with
  | .ok i => some i
  | .error _ => none

end Sys2Proof
end

