-- ==== Sys2Proof/Machine/State.lean ====
section
/-! DEFINITION. Everything the spec gives the block and its channel, as plain data (10_state.md R38), with what the
model adds: the result port, the turns of host and channel, and the counter of the free values. -/

namespace Sys2Proof.Machine

/-- Which half of a sent pair comes next: the tag (`half = 0`) or the telegram byte (`half = 1`) (10_state.md R33). -/
inductive Half where
  | tag
  | data
  deriving DecidableEq, Repr

/-- Who a SEND_FRAME returns to: the host, or POLL_EVENT's confirmation step P_NCD (10_state.md R33). -/
inductive Caller where
  | host
  | pollEvent
  deriving DecidableEq, Repr

/-- What an inter-frame delay returns to (44_framer.md R204, R206). -/
inductive After where
  /-- SEND_ACK or SEND_NOT_ADDRESSED is done -/
  | acknowledged
  /-- SEND_FRAME is done with this result -/
  | confirmed (caller : Caller) (ok : BitVec 1)
  /-- POLL_EVENT has acknowledged a telegram with this interest decision -/
  | pollAcknowledged (interest : BitVec 1)
  deriving DecidableEq, Repr

/-- Where POLL_EVENT stands in its classification: each of the three channel primitives it uses there is a step of its
own (44_framer.md R194, 45_session_rx.md R232; log 17). -/
inductive Cls where
  /-- ChanAvailable comes next -/
  | available
  /-- ChanPeek comes next -/
  | peek
  /-- ChanRead comes next; the byte it consumes was classified, and this is the event (30_encoding.md R93) -/
  | read (event : BitVec 3)
  deriving DecidableEq, Repr

/-- SEQ, the position of the block in the operation it executes: the ten values of 10_state.md R33, each with the
index, buffer, decision and return point it keeps. -/
inductive Seq where
  | idle
  | rd
  | tx (sel : Buf) (i : Nat) (half : Half) (caller : Caller)
  | conf (caller : Caller)
  | ackTx (b : Byte)
  | dly (after : After)
  | pCls (phase : Cls)
  | pRx (i : Nat)
  | pAck (interest : BitVec 1)
  | pNcd (interest : BitVec 1)
  deriving DecidableEq, Repr

/-- What stands on the result port: the tuple of fixed-width values of the command's row (30_encoding.md R91). -/
inductive Result where
  /-- a row without a result -/
  | empty
  | flag (b : BitVec 1)
  | code2 (v : BitVec 2)
  | code3 (v : BitVec 3)
  | code4 (v : BitVec 4)
  | code5 (v : BitVec 5)
  | code6 (v : BitVec 6)
  | byte (b : Byte)
  | individual (area line : BitVec 4) (member : Byte)
  | group (main : BitVec 5) (middle : BitVec 3) (sub : Byte)
  /-- the exact rational `v / 100` (43_datapoint.md R169) -/
  | hundredths (v : Int)
  | word32 (f : BitVec 32)
  | text (t : Vector Byte 14)
  | time (wd : BitVec 3) (h : BitVec 5) (mi sec : BitVec 6)
  | readByte (valid : BitVec 1) (b : Byte)
  | rxStatus (timedOut sentOk : BitVec 1)
  deriving DecidableEq, Repr

/-- One turn of the world outside the block's own sequencing (00_scope.md R7; log 8). -/
inductive Turn where
  /-- the block takes one step -/
  | block
  /-- a word is issued: the host's command on the command port, or a word of another space -/
  | issue (w : Issued)
  /-- the channel delivers a byte -/
  | deliver (b : Byte)
  /-- READ_TIMEOUT passes without a byte -/
  | timeout
  deriving DecidableEq, Repr

/-- The buffer space: the cells that differ from the reset contents, addresses strictly rising (log 1). -/
abbrev Memory := List Host.Cell

/-- The state of block and channel. -/
@[ext]
structure State where
  /-- TG[IN] and TG[RPL] (10_state.md R21) -/
  mem : Memory
  /-- OWN_ADDR (R25) -/
  ownAddr : BitVec 16
  /-- LISTEN[0..47] (R26) -/
  listen : Vector (BitVec 16) 48
  /-- LISTEN_COUNT (R26) -/
  listenCount : BitVec 6
  /-- LISTEN_BCAST (R27) -/
  listenBcast : BitVec 1
  /-- RX_TIMED_OUT (R28) -/
  rxTimedOut : BitVec 1
  /-- CONF_SENT_OK (R29) -/
  confSentOk : BitVec 1
  /-- SEQ (R33) -/
  seq : Seq
  /-- the result port (R34): nothing while a command runs -/
  result : Option Result
  /-- RXQ (R35), oldest byte first -/
  rxq : List Byte
  /-- TXLOG (R35), oldest byte first -/
  txlog : List Byte
  /-- the turns of host and channel still to come (log 8) -/
  env : List Turn
  /-- how many free values have been taken (log 6, 7) -/
  choices : Nat
deriving DecidableEq, Repr

/-- Reasons the machine stops with a fault: none, since the block has no fault outcome (60_exceptions.md R256). -/
inductive Fault where
  deriving DecidableEq, Repr

/-- Reasons the model gives a command no meaning (60_exceptions.md R252). The run ends there, which is the
refusal mark R252 asks for (log 18). -/
inductive Refusal where
  /-- an instruction without a meaning yet; raised by exec alone; safe -/
  | notModelled (mnemonic : String)
  /-- Busy, code 0: a command or application code is issued while SEQ is not IDLE; raised by each of them; safe -/
  | busy
  /-- IndexOutOfRange, code 1: GET_BYTE or SET_BYTE of index 23 to 31 (60_exceptions.md R253); safe -/
  | indexOutOfRange
  /-- PayloadLengthOutOfRange, code 2: SET_PAYLOAD_LENGTH outside 1 to 16 (60_exceptions.md R254); safe -/
  | payloadLengthOutOfRange
  deriving DecidableEq, Repr

/-- The block right after construction (70_reset_and_hazards.md R270). Buffers hold the CLEAR telegram: no cell
differs from it. LISTEN entries, which no operation reads here, are 0 (log 2). -/
def State.reset : State where
  mem := []
  ownAddr := Config.initialOwnAddr
  listen := Vector.replicate 48 0#16
  listenCount := 0#6
  listenBcast := 0#1
  rxTimedOut := 0#1
  confSentOk := 0#1
  seq := .idle
  result := none
  rxq := Config.initialRxq
  txlog := []
  env := []
  choices := 0

/-- What a step answers. -/
abbrev Out := Host.Outcome State Fault Refusal

end Sys2Proof.Machine
end

