-- ==== Sys2Proof/Machine/Ops.lean ====
section
/-! DEFINITION. The named operations every meaning is written in: bit fields, the buffer space, the registers, the
two ports and the channel primitives.

The block takes no exception and returns from none: no state is saved, no mode changes, there is no vector
(60_exceptions.md R250, R262, R263), so there is no such operation here. -/

namespace Sys2Proof.Machine

/-! ## Bit fields (00_scope.md R11) -/

/-- `x[hi:lo]` with `n = hi - lo + 1`. -/
def getBits (x : Byte) (lo n : Nat) : BitVec n := x.extractLsb' lo n

/-- The byte with ones exactly in the `n` bits from `lo` upwards. -/
def fieldMask (lo n : Nat) : Byte := (BitVec.allOnes n).setWidth 8 <<< lo

/-- `x[hi:lo] <- v`: mask-and-OR; no other bit of the byte changes. -/
def putBits {n : Nat} (x : Byte) (lo : Nat) (v : BitVec n) : Byte :=
  (x &&& ~~~fieldMask lo n) ||| ((v.setWidth 8 <<< lo) &&& fieldMask lo n)

/-! ## The buffer space (20_memory.md R50; log 1) -/

/-- The address of byte `i` of a buffer: `cat(SEL, i)`, SEL above the 5-bit index. -/
def addr : Buf → Nat → Nat
  | .incoming, i => i
  | .reply, i => 32 + i

/-- The addresses that exist: indices 0 to 22 of either buffer (20_memory.md R55). -/
def addrExists (a : Nat) : Bool := decide (a < 64) && decide (a % 32 < Config.tgCapacity)

/-- What an unlisted address reads as: its byte of the CLEAR telegram, the reset contents (10_state.md R23). -/
def Memory.unlisted (a : Nat) : Byte := clearByte (a % 32)

/-- MemRead of one byte. -/
def Memory.read : Memory → Nat → Byte
  | [], a => Memory.unlisted a
  | (k, v) :: r, a => if k = a then v else Memory.read r a

/-- The cells of every other address. -/
def Memory.without (m : Memory) (a : Nat) : Memory := m.filter (fun c => c.1 != a)

/-- A cell put before the first one of a higher address. -/
def Memory.place : Memory → Nat → Byte → Memory
  | [], a, b => [(a, b)]
  | (k, v) :: r, a, b => if a < k then (a, b) :: (k, v) :: r else (k, v) :: Memory.place r a b

/-- MemWrite of one byte, keeping the canonical form: writing what an unlisted address reads as takes the cell out. -/
def Memory.write (m : Memory) (a : Nat) (b : Byte) : Memory :=
  if b = Memory.unlisted a then m.without a else (m.without a).place a b

/-- The canonical form: addresses strictly rising, every address exists, no cell equal to the unlisted byte. -/
def Memory.wf : Memory → Bool
  | [] => true
  | (k, v) :: r => addrExists k && v != Memory.unlisted k && r.all (fun c => decide (k < c.1)) && Memory.wf r

/-! ## One setter per piece of state -/

def State.setMem (s : State) (v : Memory) : State := { s with mem := v }
def State.setOwnAddr (s : State) (v : BitVec 16) : State := { s with ownAddr := v }
def State.setListen (s : State) (v : Vector (BitVec 16) 48) : State := { s with listen := v }
def State.setListenCount (s : State) (v : BitVec 6) : State := { s with listenCount := v }
def State.setListenBcast (s : State) (v : BitVec 1) : State := { s with listenBcast := v }
def State.setRxTimedOut (s : State) (v : BitVec 1) : State := { s with rxTimedOut := v }
def State.setConfSentOk (s : State) (v : BitVec 1) : State := { s with confSentOk := v }
def State.setSeq (s : State) (v : Seq) : State := { s with seq := v }
def State.setResult (s : State) (v : Option Result) : State := { s with result := v }
def State.setRxq (s : State) (v : List Byte) : State := { s with rxq := v }
def State.setTxlog (s : State) (v : List Byte) : State := { s with txlog := v }
def State.setEnv (s : State) (v : List Turn) : State := { s with env := v }
def State.setChoices (s : State) (v : Nat) : State := { s with choices := v }

/-! ## Telegram bytes and fields (00_scope.md R11) -/

/-- `TG[s][i]`. -/
def State.byte (s : State) (sel : Buf) (i : Nat) : Byte := s.mem.read (addr sel i)

/-- `TG[s][i] <- v`. -/
def State.setByte (s : State) (sel : Buf) (i : Nat) (v : Byte) : State := s.setMem (s.mem.write (addr sel i) v)

/-- `TG[s][i][hi:lo]`. -/
def State.field (s : State) (sel : Buf) (i lo n : Nat) : BitVec n := getBits (s.byte sel i) lo n

/-- `TG[s][i][hi:lo] <- v`. -/
def State.setField {n : Nat} (s : State) (sel : Buf) (i lo : Nat) (v : BitVec n) : State :=
  s.setByte sel i (putBits (s.byte sel i) lo v)

/-- Bytes stored one after another from index `i`. -/
def State.fill (s : State) (sel : Buf) (i : Nat) : List Byte → State
  | [] => s
  | b :: r => State.fill (s.setByte sel i b) sel (i + 1) r

/-- The 23 bytes CLEAR writes. -/
def clearTelegram : List Byte := (List.range Config.tgCapacity).map clearByte

/-- CLEAR of one buffer (41_codec_fields.md R100). -/
def State.clearBuf (s : State) (sel : Buf) : State := s.fill sel 0 clearTelegram

/-- The payload length `n`, 1 to 16 (41_codec_fields.md R104). -/
def State.payloadLength (s : State) (sel : Buf) : Nat := (s.field sel 5 0 4).toNat + 1

/-- The total length, 8 to 23 (41_codec_fields.md R105). -/
def State.totalLength (s : State) (sel : Buf) : Nat := Config.headerSize + s.payloadLength sel + 1

/-- The length field written for a payload length `n` (41_codec_fields.md R103). -/
def State.putLength (s : State) (sel : Buf) (n : Nat) : State := s.setField sel 5 0 (BitVec.ofNat 4 (n - 1))

/-! ## The command port (10_state.md R34) -/

/-- The code of a refusal (60_exceptions.md R252). -/
def Refusal.code : Refusal → Option Nat
  | .busy => some 0
  | .indexOutOfRange => some 1
  | .payloadLengthOutOfRange => some 2
  | _ => none

/-- A command runs only while SEQ is IDLE; Busy is checked before any operand (60_exceptions.md R252, R255). -/
def whenIdle (s : State) (k : Out) : Out := if s.seq = .idle then k else .refused .busy

/-- A command that completes in one step, its result on the port. -/
def answer (s : State) (r : Result) : Out := .next (s.setResult (some r))

/-- A command that touches the channel: the port empties and the sequencer takes over. -/
def begin (s : State) (q : Seq) : Out := .next ((s.setResult none).setSeq q)

/-- The end of a sequenced operation: SEQ returns to IDLE with the result on the port. -/
def State.finish (s : State) (r : Result) : State := (s.setResult (some r)).setSeq .idle

/-! ## The channel primitives (44_framer.md R195 to R199, R204) -/

def State.chanAvailable (s : State) : Bool := !s.rxq.isEmpty
def State.chanPeek (s : State) : Option Byte := s.rxq.head?
def State.chanRead (s : State) : State := s.setRxq s.rxq.tail
def State.chanWrite (s : State) (b : Byte) : State := s.setTxlog (s.txlog ++ [b])

end Sys2Proof.Machine
end

