-- ==== Sys2Proof/Machine/Apci.lean ====
section
/-! DEFINITION. Meanings of the table's application commands (30_encoding.md R84).

All the block does with an application command is to name it: DECODE_APP_COMMAND puts its code on the result port and
writes nothing (41_codec_fields.md R126). What a node does with one is the dispatcher's, outside the block
(00_scope.md R6). So the meaning of a row is the code of its name; `data6` is data and never changes it (R126). The
naming is part of a command, so it waits for IDLE like every command (log 13). -/

namespace Sys2Proof.Machine

/-- An application command named on the result port. -/
def nameApp (a : AppCommand) (s : State) : Out := whenIdle s (answer s (.code5 (appCommandCode a)))

/-- APCI_GROUP_READ (R84). -/
def execApciGroupRead (_data6 : BitVec 6) (s : State) : Out := nameApp .groupRead s

/-- APCI_GROUP_RESPONSE (R84). -/
def execApciGroupResponse (_data6 : BitVec 6) (s : State) : Out := nameApp .groupResponse s

/-- APCI_GROUP_WRITE (R84). -/
def execApciGroupWrite (_data6 : BitVec 6) (s : State) : Out := nameApp .groupWrite s

/-- APCI_INDIVIDUAL_ADDR_WRITE (R84). -/
def execApciIndividualAddrWrite (_data6 : BitVec 6) (s : State) : Out := nameApp .individualAddrWrite s

/-- APCI_INDIVIDUAL_ADDR_READ (R84). -/
def execApciIndividualAddrRead (_data6 : BitVec 6) (s : State) : Out := nameApp .individualAddrRead s

/-- APCI_INDIVIDUAL_ADDR_RESPONSE (R84). -/
def execApciIndividualAddrResponse (_data6 : BitVec 6) (s : State) : Out := nameApp .individualAddrResponse s

/-- APCI_MEMORY_READ (R84). -/
def execApciMemoryRead (_data6 : BitVec 6) (s : State) : Out := nameApp .memoryRead s

/-- APCI_MEMORY_RESPONSE (R84). -/
def execApciMemoryResponse (_data6 : BitVec 6) (s : State) : Out := nameApp .memoryResponse s

/-- APCI_MEMORY_WRITE (R84). -/
def execApciMemoryWrite (_data6 : BitVec 6) (s : State) : Out := nameApp .memoryWrite s

/-- APCI_DEVICE_DESCRIPTOR_READ (R84). -/
def execApciDeviceDescriptorRead (_data6 : BitVec 6) (s : State) : Out := nameApp .deviceDescriptorRead s

/-- APCI_DEVICE_DESCRIPTOR_RESPONSE (R84). -/
def execApciDeviceDescriptorResponse (_data6 : BitVec 6) (s : State) : Out := nameApp .deviceDescriptorResponse s

/-- APCI_RESTART (R84). -/
def execApciRestart (_data6 : BitVec 6) (s : State) : Out := nameApp .restart s

/-- APCI_AUTHORIZE_REQUEST (R84). -/
def execApciAuthorizeRequest (s : State) : Out := nameApp .authorizeRequest s

/-- APCI_AUTHORIZE_RESPONSE (R84). -/
def execApciAuthorizeResponse (s : State) : Out := nameApp .authorizeResponse s

/-- APCI_PROPERTY_READ (R84). -/
def execApciPropertyRead (s : State) : Out := nameApp .propertyRead s

/-- APCI_PROPERTY_RESPONSE (R84). -/
def execApciPropertyResponse (s : State) : Out := nameApp .propertyResponse s

/-- APCI_PROPERTY_WRITE (R84). -/
def execApciPropertyWrite (s : State) : Out := nameApp .propertyWrite s

end Sys2Proof.Machine
end

