-- ==== Sys2Proof/Machine/Operands.lean ====
section
/-! DEFINITION. The operand forms of the commands: addresses, the application-control field, the codes. -/

namespace Sys2Proof.Machine

/-- The codes of the communication types and the control data the block acts on (30_encoding.md R77). -/
def commNdp : BitVec 2 := 0b01#2
def commUcd : BitVec 2 := 0b10#2
def commNcd : BitVec 2 := 0b11#2
def controlPosConfirm : BitVec 2 := 0b10#2

/-- An individual address, `cat(area, line, member)` (30_encoding.md R73). -/
def individualAddr (area line : BitVec 4) (member : Byte) : BitVec 16 := (area ++ line) ++ member

/-- A group address, `cat(main, middle, sub)` (30_encoding.md R74). -/
def groupAddr (main : BitVec 5) (middle : BitVec 3) (sub : Byte) : BitVec 16 := (main ++ middle) ++ sub

/-- Two bytes of a buffer read as an individual address (41_codec_fields.md R111, R115). -/
def State.individualAt (s : State) (sel : Buf) (i : Nat) : Result :=
  .individual (s.field sel i 4 4) (s.field sel i 0 4) (s.byte sel (i + 1))

/-- Two bytes of a buffer read as a group address (41_codec_fields.md R113). -/
def State.groupAt (s : State) (sel : Buf) (i : Nat) : Result :=
  .group (s.field sel i 3 5) (s.field sel i 0 3) (s.byte sel (i + 1))

/-- Two bytes of a buffer as one 16-bit value, most significant first (20_memory.md R52). -/
def State.word16 (s : State) (sel : Buf) (i : Nat) : BitVec 16 := s.byte sel i ++ s.byte sel (i + 1)

/-- The source address written, bytes 1 to 2 (41_codec_fields.md R110). -/
def State.putSource (s : State) (sel : Buf) (hi lo : Byte) : State := (s.setByte sel 1 hi).setByte sel 2 lo

/-- The target written, bytes 3 to 4, with its kind in byte 5 bit 7 (41_codec_fields.md R112, R114). -/
def State.putTarget (s : State) (sel : Buf) (hi lo : Byte) (kind : BitVec 1) : State :=
  ((s.setByte sel 3 hi).setByte sel 4 lo).setField sel 5 7 kind

/-- The 4-bit command (30_encoding.md R78). -/
def State.cmd4 (s : State) (sel : Buf) : BitVec 4 := s.field sel 6 0 2 ++ s.field sel 7 6 2

/-- The 6 bits after it: extended command or first data (30_encoding.md R78). -/
def State.ext6 (s : State) (sel : Buf) : BitVec 6 := s.field sel 7 0 6

/-- The communication type (30_encoding.md R76). -/
def State.commType (s : State) (sel : Buf) : BitVec 2 := s.field sel 6 6 2

/-- The application command of a buffer: UNKNOWN for a control telegram and for payload length 1
(41_codec_fields.md R126). -/
def State.appCommand (s : State) (sel : Buf) : AppCommand :=
  if s.commType sel = commUcd ∨ s.commType sel = commNcd ∨ s.payloadLength sel < 2 then .unknown
  else appCommandOf (s.cmd4 sel) (s.ext6 sel)

/-- `n` bytes of a buffer from index `i`. -/
def State.bytesFrom (s : State) (sel : Buf) (i n : Nat) : List Byte :=
  (List.range n).map (fun k => s.byte sel (i + k))

/-- The 14 text bytes from index `i`. -/
def State.textAt (s : State) (sel : Buf) (i : Nat) : Vector Byte 14 := Vector.ofFn (fun k => s.byte sel (i + k.val))

end Sys2Proof.Machine
end

