-- ==== Sys2Proof/Machine/Flags.lean ====
section
/-! DEFINITION. The boolean outcomes. The block has no condition codes (10_state.md R30); what its operations decide
(checksum valid, byte class, group listened to, telegram of interest) is computed here. -/

namespace Sys2Proof.Machine

/-- The checksum position `6 + n` (42_checksum.md R150). -/
def State.checksumPos (s : State) (sel : Buf) : Nat := Config.headerSize + s.payloadLength sel

/-- The checksum of the declared bytes: XOR from 0xFF (42_checksum.md R150). -/
def State.checksum (s : State) (sel : Buf) : Byte :=
  (s.bytesFrom sel 0 (s.checksumPos sel)).foldl (fun acc b => acc ^^^ b) 0xFF#8

/-- Whether the stored checksum is the computed one (42_checksum.md R153). -/
def State.checksumOk (s : State) (sel : Buf) : Bool := s.byte sel (s.checksumPos sel) == s.checksum sel

/-- CLASSIFY_BYTE's class (44_framer.md R192, 30_encoding.md R93). -/
def classOf (b : Byte) : BitVec 2 :=
  if b = resetIndByte then 2#2 else if isFrameStartByte b then 1#2 else 0#2

/-- The valid entries of the listen set, in insertion order (10_state.md R26). -/
def State.listenSet (s : State) : List (BitVec 16) := s.listen.toList.take s.listenCount.toNat

/-- Whether a group address is in the listen set (45_session_rx.md R226). -/
def State.listensTo (s : State) (g : BitVec 16) : Bool := s.listenSet.contains g

/-- The interest function (45_session_rx.md R230). -/
def State.interested (s : State) (sel : Buf) : Bool :=
  if s.field sel 5 7 1 = 1#1 then
    s.listensTo (s.word16 sel 3) || (s.word16 sel 3 == 0#16 && s.listenBcast == 1#1)
  else s.word16 sel 3 == s.ownAddr

/-- Whether the received telegram is numbered, NDP or NCD (45_session_rx.md R236). -/
def State.numbered (s : State) : Bool := s.commType .incoming == commNdp || s.commType .incoming == commNcd

/-- The event of an assembled telegram (30_encoding.md R93): 2 of interest, 3 not. -/
def telegramEvent (interest : BitVec 1) : BitVec 3 := if interest = 1#1 then 2#3 else 3#3

end Sys2Proof.Machine
end

