-- ==== Sys2Proof/Machine/Checksum.lean ====
section
/-! DEFINITION. Meanings of the checksum operations (42_checksum.md). -/

namespace Sys2Proof.Machine

/-- The checksum computed and stored at its position (R152). -/
def State.putChecksum (s : State) (sel : Buf) : State := s.setByte sel (s.checksumPos sel) (s.checksum sel)

/-- CALC_CHECKSUM (R151). -/
def execCalcChecksum (sel : Buf) (s : State) : Out :=
  whenIdle s (answer s (.byte (s.checksum sel)))

/-- CREATE_CHECKSUM (R152). -/
def execCreateChecksum (sel : Buf) (s : State) : Out :=
  whenIdle s (answer (s.putChecksum sel) .empty)

/-- VERIFY_CHECKSUM (R153; the telegram stays as it is whatever the result). -/
def execVerifyChecksum (sel : Buf) (s : State) : Out :=
  whenIdle s (answer s (.flag (BitVec.ofBool (s.checksumOk sel))))

/-- GET_CHECKSUM (R154; the stored byte, valid or not). -/
def execGetChecksum (sel : Buf) (s : State) : Out :=
  whenIdle s (answer s (.byte (s.byte sel (s.checksumPos sel))))

end Sys2Proof.Machine
end

