-- ==== Sys2Proof/Machine/Codec.lean ====
section
/-! DEFINITION. Meanings of the codec field operations (41_codec_fields.md). None touches the channel, so each takes
one step from IDLE to IDLE, and none recomputes the checksum (R135). -/

namespace Sys2Proof.Machine

/-- CLEAR (R100). -/
def execClear (sel : Buf) (s : State) : Out :=
  whenIdle s (answer (s.clearBuf sel) .empty)

/-- GET_BYTE (R101). -/
def execGetByte (sel : Buf) (idx : BitVec 5) (s : State) : Out :=
  whenIdle s (if 22 < idx.toNat then .refused .indexOutOfRange else answer s (.byte (s.byte sel idx.toNat)))

/-- SET_BYTE (R102). -/
def execSetByte (sel : Buf) (idx : BitVec 5) (val : Byte) (s : State) : Out :=
  whenIdle s (if 22 < idx.toNat then .refused .indexOutOfRange else answer (s.setByte sel idx.toNat val) .empty)

/-- GET_TOTAL_LENGTH (R105). -/
def execGetTotalLength (sel : Buf) (s : State) : Out :=
  whenIdle s (answer s (.code5 (BitVec.ofNat 5 (s.totalLength sel))))

/-- SET_PAYLOAD_LENGTH (R103). -/
def execSetPayloadLength (sel : Buf) (n : BitVec 5) (s : State) : Out :=
  whenIdle s (if n.toNat < 1 ∨ 16 < n.toNat then .refused .payloadLengthOutOfRange
    else answer (s.putLength sel n.toNat) .empty)

/-- GET_PAYLOAD_LENGTH (R104). -/
def execGetPayloadLength (sel : Buf) (s : State) : Out :=
  whenIdle s (answer s (.code5 (BitVec.ofNat 5 (s.payloadLength sel))))

/-- SET_REPEATED (R106; the stored bit is 1 when NOT repeated). -/
def execSetRepeated (sel : Buf) (r : BitVec 1) (s : State) : Out :=
  whenIdle s (answer (s.setField sel 0 5 (~~~r)) .empty)

/-- IS_REPEATED (R107). -/
def execIsRepeated (sel : Buf) (s : State) : Out :=
  whenIdle s (answer s (.flag (~~~s.field sel 0 5 1)))

/-- SET_PRIORITY (R108). -/
def execSetPriority (sel : Buf) (p : BitVec 2) (s : State) : Out :=
  whenIdle s (answer (s.setField sel 0 2 p) .empty)

/-- GET_PRIORITY (R109). -/
def execGetPriority (sel : Buf) (s : State) : Out :=
  whenIdle s (answer s (.code2 (s.field sel 0 2 2)))

/-- SET_SOURCE_ADDRESS (R110). -/
def execSetSourceAddress (sel : Buf) (area line : BitVec 4) (member : Byte) (s : State) : Out :=
  whenIdle s (answer (s.putSource sel (area ++ line) member) .empty)

/-- GET_SOURCE_ADDRESS (R111). -/
def execGetSourceAddress (sel : Buf) (s : State) : Out :=
  whenIdle s (answer s (s.individualAt sel 1))

/-- SET_TARGET_GROUP (R112). -/
def execSetTargetGroup (sel : Buf) (main : BitVec 5) (middle : BitVec 3) (sub : Byte) (s : State) : Out :=
  whenIdle s (answer (s.putTarget sel (main ++ middle) sub 1#1) .empty)

/-- GET_TARGET_GROUP (R113). -/
def execGetTargetGroup (sel : Buf) (s : State) : Out :=
  whenIdle s (answer s (s.groupAt sel 3))

/-- SET_TARGET_INDIVIDUAL (R114). -/
def execSetTargetIndividual (sel : Buf) (area line : BitVec 4) (member : Byte) (s : State) : Out :=
  whenIdle s (answer (s.putTarget sel (area ++ line) member 0#1) .empty)

/-- GET_TARGET_INDIVIDUAL (R115). -/
def execGetTargetIndividual (sel : Buf) (s : State) : Out :=
  whenIdle s (answer s (s.individualAt sel 3))

/-- SET_TARGET_TYPE (R116). -/
def execSetTargetType (sel : Buf) (g : BitVec 1) (s : State) : Out :=
  whenIdle s (answer (s.setField sel 5 7 g) .empty)

/-- IS_TARGET_GROUP (R117). -/
def execIsTargetGroup (sel : Buf) (s : State) : Out :=
  whenIdle s (answer s (.flag (s.field sel 5 7 1)))

/-- SET_ROUTING_COUNTER (R118). -/
def execSetRoutingCounter (sel : Buf) (rc : BitVec 3) (s : State) : Out :=
  whenIdle s (answer (s.setField sel 5 4 rc) .empty)

/-- GET_ROUTING_COUNTER (R119). -/
def execGetRoutingCounter (sel : Buf) (s : State) : Out :=
  whenIdle s (answer s (.code3 (s.field sel 5 4 3)))

/-- SET_COMM_TYPE (R120). -/
def execSetCommType (sel : Buf) (ct : BitVec 2) (s : State) : Out :=
  whenIdle s (answer (s.setField sel 6 6 ct) .empty)

/-- GET_COMM_TYPE (R121). -/
def execGetCommType (sel : Buf) (s : State) : Out :=
  whenIdle s (answer s (.code2 (s.commType sel)))

/-- SET_SEQUENCE_NUMBER (R122). -/
def execSetSequenceNumber (sel : Buf) (sn : BitVec 4) (s : State) : Out :=
  whenIdle s (answer (s.setField sel 6 2 sn) .empty)

/-- GET_SEQUENCE_NUMBER (R123). -/
def execGetSequenceNumber (sel : Buf) (s : State) : Out :=
  whenIdle s (answer s (.code4 (s.field sel 6 2 4)))

/-- SET_CONTROL_DATA (R124). -/
def execSetControlData (sel : Buf) (cd : BitVec 2) (s : State) : Out :=
  whenIdle s (answer (s.setField sel 6 0 cd) .empty)

/-- GET_CONTROL_DATA (R125). -/
def execGetControlData (sel : Buf) (s : State) : Out :=
  whenIdle s (answer s (.code2 (s.field sel 6 0 2)))

/-- SET_COMMAND (R127). -/
def execSetCommand (sel : Buf) (c : BitVec 4) (s : State) : Out :=
  whenIdle s (answer ((s.setField sel 6 0 (c.extractLsb' 2 2)).setField sel 7 6 (c.extractLsb' 0 2)) .empty)

/-- GET_COMMAND (R128). -/
def execGetCommand (sel : Buf) (s : State) : Out :=
  whenIdle s (answer s (.code4 (s.cmd4 sel)))

/-- SET_EXTENDED_COMMAND (R129). -/
def execSetExtendedCommand (sel : Buf) (x : BitVec 6) (s : State) : Out :=
  whenIdle s (answer (s.setField sel 7 0 x) .empty)

/-- GET_EXTENDED_COMMAND (R130). -/
def execGetExtendedCommand (sel : Buf) (s : State) : Out :=
  whenIdle s (answer s (.code6 (s.ext6 sel)))

/-- SET_FIRST_DATA_BYTE (R131). -/
def execSetFirstDataByte (sel : Buf) (d : BitVec 6) (s : State) : Out :=
  whenIdle s (answer (s.setField sel 7 0 d) .empty)

/-- GET_FIRST_DATA_BYTE (R132). -/
def execGetFirstDataByte (sel : Buf) (s : State) : Out :=
  whenIdle s (answer s (.code6 (s.ext6 sel)))

/-- DECODE_APP_COMMAND (R126). -/
def execDecodeAppCommand (sel : Buf) (s : State) : Out :=
  whenIdle s (answer s (.code5 (appCommandCode (s.appCommand sel))))

end Sys2Proof.Machine
end

