-- ==== Sys2Proof/Machine/Float16.lean ====
section
/-! DEFINITION. The 2-byte float, exactly (43_datapoint.md R165 to R169).

A finite binary32 value is an integer multiple of 2^-149, so every quantity of the encoder is a natural number over a
power of two and no rounding happens but the one the rule names. The rule treats both signs alike, so the encoder
works on magnitudes and applies the sign to the rounded mantissa. -/

namespace Sys2Proof.Machine

def b32Sign (f : BitVec 32) : BitVec 1 := f.extractLsb' 31 1
def b32Exponent (f : BitVec 32) : Nat := (f.extractLsb' 23 8).toNat
def b32Fraction (f : BitVec 32) : Nat := (f.extractLsb' 0 23).toNat

/-- Neither NaN nor infinite. -/
def b32Finite (f : BitVec 32) : Bool := b32Exponent f != 255

/-- The magnitude of a finite binary32, in units of 2^-149. -/
def b32Magnitude (f : BitVec 32) : Nat :=
  if b32Exponent f = 0 then b32Fraction f else (2 ^ 23 + b32Fraction f) * 2 ^ (b32Exponent f - 1)

/-- `n / d` to the nearest integer, ties as the parameter says (FLOAT16_TIES). -/
def roundDiv (ties : Ties) (n d : Nat) : Nat :=
  if 2 * (n % d) < d then n / d
  else if d < 2 * (n % d) then n / d + 1
  else match ties with
    | .away => n / d + 1
    | .even => n / d + n / d % 2

/-- A magnitude in units of 2^-149 rounded to the 24 bits of a binary32, ties to even. A value too large for a
binary32 keeps its rounded magnitude, which lies as far outside the encodable range as an infinity would. -/
def roundBinary32 (n : Nat) : Nat :=
  if Nat.log2 n < 24 then n else roundDiv .even n (2 ^ (Nat.log2 n - 23)) * 2 ^ (Nat.log2 n - 23)

/-- The magnitude of `v = 100 x` in units of 2^-149 (FLOAT16_SCALE). -/
def scaledMagnitude (scale : Scale) (f : BitVec 32) : Nat :=
  match scale with
  | .exact => 100 * b32Magnitude f
  | .binary32 => roundBinary32 (100 * b32Magnitude f)

/-- The exponent after halving while the magnitude exceeds 2047, at most `fuel` more times. -/
def halvings (n : Nat) : Nat → Nat → Nat
  | 0, e => e
  | fuel + 1, e => if 2047 * 2 ^ (149 + e) < n then halvings n fuel (e + 1) else e

/-- The exponent `E` of a scaled magnitude, 0 to 15. -/
def exponentOf (n : Nat) : Nat := halvings n 15 0

/-- The mantissa magnitude at exponent `e`. -/
def mantissaOf (ties : Ties) (n e : Nat) : Nat := roundDiv ties n (2 ^ (149 + e))

/-- Bytes 8 and 9 from sign, exponent and mantissa magnitude; the sign bit follows the mantissa (43_datapoint.md
R166). -/
def packFloat16 (sign : BitVec 1) (e q : Nat) : Byte × Byte :=
  let neg := sign = 1#1 ∧ q ≠ 0
  let m := if neg then 2048 - q else q
  (BitVec.ofNat 8 ((if neg then 128 else 0) + 8 * e + m / 256), BitVec.ofNat 8 (m % 256))

/-- `f16enc` (43_datapoint.md R166); `none` where the rule draws the bytes (R168). -/
def float16Encode (ties : Ties) (scale : Scale) (f : BitVec 32) : Option (Byte × Byte) :=
  let n := scaledMagnitude scale f
  let e := exponentOf n
  if !b32Finite f || decide (2047 * 2 ^ (149 + e) < n) then none
  else some (packFloat16 (b32Sign f) e (mantissaOf ties n e))

/-- The mantissa `M = m - 2048 S` of two value bytes (43_datapoint.md R165). -/
def float16Mantissa (hi lo : Byte) : Int :=
  ((hi.extractLsb' 0 3 ++ lo).toNat : Int) - 2048 * ((hi.extractLsb' 7 1).toNat : Int)

/-- The exponent of two value bytes. -/
def float16Exponent (hi : Byte) : Nat := (hi.extractLsb' 3 4).toNat

/-- The decoded value times 100, `M * 2^E` (43_datapoint.md R169). -/
def float16Hundredths (hi lo : Byte) : Int := float16Mantissa hi lo * 2 ^ float16Exponent hi

end Sys2Proof.Machine
end

