-- ==== Sys2Proof/Machine/Datapoint.lean ====
section
/-! DEFINITION. Meanings of the datapoint encoders and decoders (43_datapoint.md). An encoder sets the payload length,
then stores its value from byte 8 (R161); a decoder whose length does not match gives its invalid value (R178). -/

namespace Sys2Proof.Machine

/-- The length an encoder's type requires, then its value bytes from byte 8 (R161). -/
def State.putValue (s : State) (sel : Buf) (n : Nat) (bytes : List Byte) : State :=
  (s.putLength sel n).fill sel 8 bytes

/-- The 2-byte float stored (R167); where the encoder draws, bytes 8 and 9 are two fresh free values (R168; log 7). -/
def State.putFloat16 (s : State) (sel : Buf) (f : BitVec 32) : State :=
  match float16Encode float16Ties float16Scale f with
  | some (hi, lo) => s.putValue sel 4 [hi, lo]
  | none =>
    (s.putValue sel 4 [Config.freeByte s.choices, Config.freeByte (s.choices + 1)]).setChoices (s.choices + 2)

/-- GET_BOOL (R162). -/
def execGetBool (sel : Buf) (s : State) : Out :=
  whenIdle s (answer s (if s.payloadLength sel = 2 then .flag (s.field sel 7 0 1) else .flag 0#1))

/-- SET_1BYTE_INT (R163). -/
def execSet1ByteInt (sel : Buf) (v : Byte) (s : State) : Out :=
  whenIdle s (answer (s.putValue sel 3 [v]) .empty)

/-- GET_1BYTE_INT (R164). -/
def execGet1ByteInt (sel : Buf) (s : State) : Out :=
  whenIdle s (answer s (if s.payloadLength sel = 3 then .byte (s.byte sel 8) else .byte 0#8))

/-- SET_2BYTE_FLOAT (R167, R168). -/
def execSet2ByteFloat (sel : Buf) (f : BitVec 32) (s : State) : Out :=
  whenIdle s (answer (s.putFloat16 sel f) .empty)

/-- GET_2BYTE_FLOAT (R169). -/
def execGet2ByteFloat (sel : Buf) (s : State) : Out :=
  whenIdle s (answer s (if s.payloadLength sel = 4 then .hundredths (float16Hundredths (s.byte sel 8) (s.byte sel 9))
    else .hundredths 0))

/-- SET_4BYTE_FLOAT (R171). -/
def execSet4ByteFloat (sel : Buf) (f : BitVec 32) (s : State) : Out :=
  whenIdle s (answer
    (s.putValue sel 6 [f.extractLsb' 24 8, f.extractLsb' 16 8, f.extractLsb' 8 8, f.extractLsb' 0 8]) .empty)

/-- GET_4BYTE_FLOAT (R172). -/
def execGet4ByteFloat (sel : Buf) (s : State) : Out :=
  whenIdle s (answer s (if s.payloadLength sel = 6 then .word32 (s.word16 sel 8 ++ s.word16 sel 10)
    else .word32 0#32))

/-- SET_14BYTE_TEXT (R173). -/
def execSet14ByteText (sel : Buf) (t : Vector Byte 14) (s : State) : Out :=
  whenIdle s (answer (s.putValue sel 16 t.toList) .empty)

/-- GET_14BYTE_TEXT (R174). -/
def execGet14ByteText (sel : Buf) (s : State) : Out :=
  whenIdle s (answer s (if s.payloadLength sel = 16 then .text (s.textAt sel 8) else .text (Vector.replicate 14 0#8)))

/-- SET_TIME (R176). -/
def execSetTime (sel : Buf) (wd : BitVec 3) (h : BitVec 5) (mi sec : BitVec 6) (s : State) : Out :=
  whenIdle s (answer (s.putValue sel 5 [wd ++ h, mi.setWidth 8, sec.setWidth 8]) .empty)

/-- GET_TIME (R177). -/
def execGetTime (sel : Buf) (s : State) : Out :=
  whenIdle s (answer s (if s.payloadLength sel = 5
    then .time (s.field sel 8 5 3) (s.field sel 8 0 5) (s.field sel 9 0 6) (s.field sel 10 0 6)
    else .time 0#3 0#5 0#6 0#6))

end Sys2Proof.Machine
end

