-- ==== Sys2Proof/Machine/Framer.lean ====
section
/-! DEFINITION. Meanings of the framer operations (44_framer.md). A command that touches the channel moves SEQ from IDLE
to its first position here; Machine/Sequencer.lean takes it from there, one channel primitive a step. -/

namespace Sys2Proof.Machine

/-- IS_FRAME_START (R190). -/
def execIsFrameStart (b : Byte) (s : State) : Out :=
  whenIdle s (answer s (.flag (BitVec.ofBool (isFrameStartByte b))))

/-- CLASSIFY_BYTE (R192). -/
def execClassifyByte (b : Byte) (s : State) : Out :=
  whenIdle s (answer s (.code2 (classOf b)))

/-- READ_BYTE_TIMEOUT (R198). -/
def execReadByteTimeout (s : State) : Out :=
  whenIdle s (begin s .rd)

/-- SEND_FRAME (R201). -/
def execSendFrame (sel : Buf) (s : State) : Out :=
  whenIdle s (begin s (.tx sel 0 .tag .host))

/-- SEND_ACK (R206). -/
def execSendAck (s : State) : Out :=
  whenIdle s (begin s (.ackTx ackByte))

/-- SEND_NOT_ADDRESSED (R207). -/
def execSendNotAddressed (s : State) : Out :=
  whenIdle s (begin s (.ackTx notAddressedByte))

end Sys2Proof.Machine
end

