-- ==== Sys2Proof/Machine/Session.lean ====
section
/-! DEFINITION. Meanings of the bus session operations (45_session_rx.md). -/

namespace Sys2Proof.Machine

/-- A group appended to the listen set, or the no-op rejection of a full one (R225). -/
def State.addListen (s : State) (g : BitVec 16) : Out :=
  if s.listenCount.toNat < Config.listenMax then
    answer ((s.setListen (s.listen.setIfInBounds s.listenCount.toNat g)).setListenCount (s.listenCount + 1))
      (.flag 1#1)
  else answer s (.flag 0#1)

/-- POLL_EVENT (R232). -/
def execPollEvent (s : State) : Out :=
  whenIdle s (begin s (.pCls .available))

/-- GET_RX_STATUS (R239). -/
def execGetRxStatus (s : State) : Out :=
  whenIdle s (answer s (.rxStatus s.rxTimedOut s.confSentOk))

/-- SET_OWN_ADDRESS (R222). -/
def execSetOwnAddress (area line : BitVec 4) (member : Byte) (s : State) : Out :=
  whenIdle s (answer (s.setOwnAddr (individualAddr area line member)) .empty)

/-- GET_OWN_ADDRESS (R223). -/
def execGetOwnAddress (s : State) : Out :=
  whenIdle s (answer s
    (.individual (s.ownAddr.extractLsb' 12 4) (s.ownAddr.extractLsb' 8 4) (s.ownAddr.extractLsb' 0 8)))

/-- ADD_LISTEN_GROUP (R225). -/
def execAddListenGroup (main : BitVec 5) (middle : BitVec 3) (sub : Byte) (s : State) : Out :=
  whenIdle s (s.addListen (groupAddr main middle sub))

/-- IS_LISTENING_GROUP (R226). -/
def execIsListeningGroup (main : BitVec 5) (middle : BitVec 3) (sub : Byte) (s : State) : Out :=
  whenIdle s (answer s (.flag (BitVec.ofBool (s.listensTo (groupAddr main middle sub)))))

/-- GET_LISTEN_COUNT (R227). -/
def execGetListenCount (s : State) : Out :=
  whenIdle s (answer s (.code6 s.listenCount))

/-- SET_LISTEN_BROADCAST (R228). -/
def execSetListenBroadcast (b : BitVec 1) (s : State) : Out :=
  whenIdle s (answer (s.setListenBcast b) .empty)

/-- GET_LISTEN_BROADCAST (R229). -/
def execGetListenBroadcast (s : State) : Out :=
  whenIdle s (answer s (.flag s.listenBcast))

/-- IS_OF_INTEREST (R231). -/
def execIsOfInterest (sel : Buf) (s : State) : Out :=
  whenIdle s (answer s (.flag (BitVec.ofBool (s.interested sel))))

end Sys2Proof.Machine
end

