-- ==== Sys2Proof/Machine/Sequencer.lean ====
section
/-! DEFINITION. The sequencer: what the block does on its own at each value of SEQ, one channel primitive a step
(10_state.md R32, R33), and the channel's two moves. Every position has a step (60_exceptions.md R257). -/

namespace Sys2Proof.Machine

/-- Whether SEQ stands at a bounded read (44_framer.md R197). -/
def Seq.reads : Seq → Bool
  | .rd => true
  | .conf _ => true
  | .pRx _ => true
  | .idle | .tx _ _ _ _ | .ackTx _ | .dly _ | .pCls _ | .pAck _ | .pNcd _ => false

/-- A bounded read is in progress on an empty queue: the channel chooses (44_framer.md R197). -/
def State.waiting (s : State) : Bool := s.seq.reads && s.rxq.isEmpty

/-- The assembly of POLL_EVENT ends: the interest decision is taken, once (45_session_rx.md R234). -/
def State.assembled (s : State) : State := s.setSeq (.pAck (BitVec.ofBool (s.interested .incoming)))

/-- A byte of the telegram arrives (45_session_rx.md R233); the total length is read from the bytes received so far,
and byte 5 is among them before it can end the loop. -/
def State.assemble (s : State) (i : Nat) (b : Byte) : State :=
  let s := s.setByte .incoming i b
  if i + 1 < s.totalLength .incoming then s.setSeq (.pRx (i + 1)) else s.assembled

/-- A bounded read ends with a byte or with nothing; what follows depends on the position that reads. -/
def State.onRead (s : State) (r : Option Byte) : State :=
  match s.seq, r with
  | .rd, some b => s.finish (.readByte 1#1 b)
  | .rd, none => s.finish (.readByte 0#1 0#8)
  | .conf c, some b =>
    if b = positiveConfirmation then s.setSeq (.dly (.confirmed c 1#1))
    else if b = negativeConfirmation then s.setSeq (.dly (.confirmed c 0#1))
    else s
  | .conf c, none => s.setSeq (.dly (.confirmed c 0#1))
  | .pRx i, some b => s.assemble i b
  | .pRx _, none => (s.setRxTimedOut 1#1).assembled
  | .idle, _ | .tx _ _ _ _, _ | .ackTx _, _ | .dly _, _ | .pCls _, _ | .pAck _, _ | .pNcd _, _ => s

/-- BoundedRead (44_framer.md R197): the head of the queue, or the channel's free choice. -/
def State.boundedRead (s : State) : State :=
  match s.rxq with
  | b :: q => (s.setRxq q).onRead (some b)
  | [] => (s.setChoices (s.choices + 1)).onRead (Config.channelAnswer s.choices)

/-- The channel delivers a byte: a read in progress on an empty queue takes it, else it queues (44_framer.md R194,
R197, 10_state.md R35). -/
def State.chanDeliver (s : State) (b : Byte) : State :=
  if s.waiting then s.onRead (some b) else s.setRxq (s.rxq ++ [b])

/-- READ_TIMEOUT passes: a read in progress on an empty queue ends without a byte; nothing else notices
(44_framer.md R197). -/
def State.chanTimeout (s : State) : State := if s.waiting then s.onRead none else s

/-- The tag of telegram byte `i` of `T` (44_framer.md R202). -/
def sendTag (i T : Nat) : Byte :=
  if i + 1 = T then tagEnd (BitVec.ofNat 6 i) else tagContinue (BitVec.ofNat 6 i)

/-- POLL_EVENT classifies the next byte, one channel primitive a step (45_session_rx.md R232, 44_framer.md R194). A
frame start stays in the queue for the first read; the buffer is cleared before it (R233). ChanPeek is used only on a
queue that holds a byte (44_framer.md R196), and the channel takes none away; on an empty one, which no run reaches,
the answer is the empty queue's. -/
def State.classify (s : State) : Cls → State
  | .available => if s.chanAvailable then s.setSeq (.pCls .peek) else s.finish (.code3 0#3)
  | .peek =>
    match s.chanPeek with
    | none => s.finish (.code3 0#3)
    | some b =>
      if b = resetIndByte then s.setSeq (.pCls (.read 1#3))
      else if isFrameStartByte b then ((s.clearBuf .incoming).setRxTimedOut 0#1).setSeq (.pRx 0)
      else s.setSeq (.pCls (.read 4#3))
  | .read event => s.chanRead.finish (.code3 event)

/-- The confirmation's transport control field: NCD, the received sequence number, POS_CONFIRM (45_session_rx.md R236). -/
def State.putConfirmControl (s : State) (sn : BitVec 4) : State :=
  ((s.setField .reply 6 6 commNcd).setField .reply 6 2 sn).setField .reply 6 0 controlPosConfirm

/-- The confirmation telegram built in RPL from own address, sender and sequence number (45_session_rx.md R236). -/
def State.buildConfirmation (s : State) : State :=
  ((((((s.clearBuf .reply).putSource .reply (s.ownAddr.extractLsb' 8 8) (s.ownAddr.extractLsb' 0 8)).putTarget .reply
    (s.byte .incoming 1) (s.byte .incoming 2) 0#1).putLength .reply 1).putConfirmControl
    (s.field .incoming 6 2 4)).putChecksum .reply)

/-- POLL_EVENT's transport step (45_session_rx.md R236): send the confirmation, or end without one. -/
def State.confirm (s : State) (interest : BitVec 1) : State :=
  if interest = 1#1 ∧ s.numbered = true then s.buildConfirmation.setSeq (.tx .reply 0 .tag .pollEvent)
  else (s.setConfSentOk 0#1).finish (.code3 (telegramEvent interest))

/-- The inter-frame delay ends; it changes nothing itself (44_framer.md R204). -/
def State.afterDelay (s : State) : After → State
  | .acknowledged => s.finish .empty
  | .confirmed .host ok => s.finish (.flag ok)
  | .confirmed .pollEvent ok => (s.setConfSentOk ok).finish (.code3 (telegramEvent 1#1))
  | .pollAcknowledged interest => s.setSeq (.pNcd interest)

/-- One step of the block. At IDLE there is nothing in progress and nothing changes. -/
def State.blockStep (s : State) : State :=
  match s.seq with
  | .idle => s
  | .rd => s.boundedRead
  | .tx sel i .tag c => (s.chanWrite (sendTag i (s.totalLength sel))).setSeq (.tx sel i .data c)
  | .tx sel i .data c =>
    (s.chanWrite (s.byte sel i)).setSeq (if i + 1 < s.totalLength sel then .tx sel (i + 1) .tag c else .conf c)
  | .conf _ => s.boundedRead
  | .ackTx b => (s.chanWrite b).setSeq (.dly .acknowledged)
  | .dly a => s.afterDelay a
  | .pCls k => s.classify k
  | .pRx _ => s.boundedRead
  | .pAck i => (s.chanWrite (if i = 1#1 then ackByte else notAddressedByte)).setSeq (.dly (.pollAcknowledged i))
  | .pNcd i => s.confirm i

end Sys2Proof.Machine
end

