-- ==== Sys2Proof/Machine/Wire.lean ====
section
/-! DEFINITION. Meanings of the table's wire bytes (30_encoding.md R87, R88).

A received control byte is the channel's move of that byte: a bounded read in progress on an empty queue takes it at
once, with the effect its position gives it (44_framer.md R197, R203), and otherwise it waits in the queue for the
block to read (log 11). A sent byte is the block writing it to the channel (44_framer.md R199); SEQ is moved by the
sequencer, which writes these bytes at its TX, ACKTX and P_ACK positions (log 12). -/

namespace Sys2Proof.Machine

/-- RX_FRAME_START (R190). -/
def execRxFrameStart (notRepeated : BitVec 1) (priority : BitVec 2) (s : State) : Out :=
  .next (s.chanDeliver (frameStartByte notRepeated priority))

/-- RX_RESET_INDICATION (R191). -/
def execRxResetIndication (s : State) : Out := .next (s.chanDeliver resetIndByte)

/-- RX_POSITIVE_CONFIRMATION (R203). -/
def execRxPositiveConfirmation (s : State) : Out := .next (s.chanDeliver positiveConfirmation)

/-- RX_NEGATIVE_CONFIRMATION (R203). -/
def execRxNegativeConfirmation (s : State) : Out := .next (s.chanDeliver negativeConfirmation)

/-- TX_TAG_CONTINUE (R202). -/
def execTxTagContinue (i : BitVec 6) (s : State) : Out := .next (s.chanWrite (tagContinue i))

/-- TX_TAG_END (R202). -/
def execTxTagEnd (i : BitVec 6) (s : State) : Out := .next (s.chanWrite (tagEnd i))

/-- TX_ACK (R206). -/
def execTxAck (s : State) : Out := .next (s.chanWrite ackByte)

/-- TX_NOT_ADDRESSED (R207). -/
def execTxNotAddressed (s : State) : Out := .next (s.chanWrite notAddressedByte)

end Sys2Proof.Machine
end

