-- ==== Sys2Proof/Machine/Dispatch.lean ====
section
/-! DEFINITION. exec: the meaning of every row of the opcode table. -/

namespace Sys2Proof.Machine

def exec (i : Instr) (s : State) : Host.Outcome State Fault Refusal :=
  match i with
  | .clear sel => Sys2Proof.Machine.execClear sel s
  | .getByte sel idx => Sys2Proof.Machine.execGetByte sel idx s
  | .setByte sel idx val => Sys2Proof.Machine.execSetByte sel idx val s
  | .getTotalLength sel => Sys2Proof.Machine.execGetTotalLength sel s
  | .setPayloadLength sel n => Sys2Proof.Machine.execSetPayloadLength sel n s
  | .getPayloadLength sel => Sys2Proof.Machine.execGetPayloadLength sel s
  | .setRepeated sel r => Sys2Proof.Machine.execSetRepeated sel r s
  | .isRepeated sel => Sys2Proof.Machine.execIsRepeated sel s
  | .setPriority sel p => Sys2Proof.Machine.execSetPriority sel p s
  | .getPriority sel => Sys2Proof.Machine.execGetPriority sel s
  | .setSourceAddress sel area line member => Sys2Proof.Machine.execSetSourceAddress sel area line member s
  | .getSourceAddress sel => Sys2Proof.Machine.execGetSourceAddress sel s
  | .setTargetGroup sel main middle sub => Sys2Proof.Machine.execSetTargetGroup sel main middle sub s
  | .getTargetGroup sel => Sys2Proof.Machine.execGetTargetGroup sel s
  | .setTargetIndividual sel area line member => Sys2Proof.Machine.execSetTargetIndividual sel area line member s
  | .getTargetIndividual sel => Sys2Proof.Machine.execGetTargetIndividual sel s
  | .setTargetType sel g => Sys2Proof.Machine.execSetTargetType sel g s
  | .isTargetGroup sel => Sys2Proof.Machine.execIsTargetGroup sel s
  | .setRoutingCounter sel rc => Sys2Proof.Machine.execSetRoutingCounter sel rc s
  | .getRoutingCounter sel => Sys2Proof.Machine.execGetRoutingCounter sel s
  | .setCommType sel ct => Sys2Proof.Machine.execSetCommType sel ct s
  | .getCommType sel => Sys2Proof.Machine.execGetCommType sel s
  | .setSequenceNumber sel sn => Sys2Proof.Machine.execSetSequenceNumber sel sn s
  | .getSequenceNumber sel => Sys2Proof.Machine.execGetSequenceNumber sel s
  | .setControlData sel cd => Sys2Proof.Machine.execSetControlData sel cd s
  | .getControlData sel => Sys2Proof.Machine.execGetControlData sel s
  | .setCommand sel c => Sys2Proof.Machine.execSetCommand sel c s
  | .getCommand sel => Sys2Proof.Machine.execGetCommand sel s
  | .setExtendedCommand sel x => Sys2Proof.Machine.execSetExtendedCommand sel x s
  | .getExtendedCommand sel => Sys2Proof.Machine.execGetExtendedCommand sel s
  | .setFirstDataByte sel d => Sys2Proof.Machine.execSetFirstDataByte sel d s
  | .getFirstDataByte sel => Sys2Proof.Machine.execGetFirstDataByte sel s
  | .decodeAppCommand sel => Sys2Proof.Machine.execDecodeAppCommand sel s
  | .calcChecksum sel => Sys2Proof.Machine.execCalcChecksum sel s
  | .createChecksum sel => Sys2Proof.Machine.execCreateChecksum sel s
  | .verifyChecksum sel => Sys2Proof.Machine.execVerifyChecksum sel s
  | .getChecksum sel => Sys2Proof.Machine.execGetChecksum sel s
  | .getBool sel => Sys2Proof.Machine.execGetBool sel s
  | .set1ByteInt sel v => Sys2Proof.Machine.execSet1ByteInt sel v s
  | .get1ByteInt sel => Sys2Proof.Machine.execGet1ByteInt sel s
  | .set2ByteFloat sel f => Sys2Proof.Machine.execSet2ByteFloat sel f s
  | .get2ByteFloat sel => Sys2Proof.Machine.execGet2ByteFloat sel s
  | .set4ByteFloat sel f => Sys2Proof.Machine.execSet4ByteFloat sel f s
  | .get4ByteFloat sel => Sys2Proof.Machine.execGet4ByteFloat sel s
  | .set14ByteText sel t => Sys2Proof.Machine.execSet14ByteText sel t s
  | .get14ByteText sel => Sys2Proof.Machine.execGet14ByteText sel s
  | .setTime sel wd h mi sec => Sys2Proof.Machine.execSetTime sel wd h mi sec s
  | .getTime sel => Sys2Proof.Machine.execGetTime sel s
  | .isFrameStart b => Sys2Proof.Machine.execIsFrameStart b s
  | .classifyByte b => Sys2Proof.Machine.execClassifyByte b s
  | .readByteTimeout => Sys2Proof.Machine.execReadByteTimeout s
  | .sendFrame sel => Sys2Proof.Machine.execSendFrame sel s
  | .sendAck => Sys2Proof.Machine.execSendAck s
  | .sendNotAddressed => Sys2Proof.Machine.execSendNotAddressed s
  | .pollEvent => Sys2Proof.Machine.execPollEvent s
  | .getRxStatus => Sys2Proof.Machine.execGetRxStatus s
  | .setOwnAddress area line member => Sys2Proof.Machine.execSetOwnAddress area line member s
  | .getOwnAddress => Sys2Proof.Machine.execGetOwnAddress s
  | .addListenGroup main middle sub => Sys2Proof.Machine.execAddListenGroup main middle sub s
  | .isListeningGroup main middle sub => Sys2Proof.Machine.execIsListeningGroup main middle sub s
  | .getListenCount => Sys2Proof.Machine.execGetListenCount s
  | .setListenBroadcast b => Sys2Proof.Machine.execSetListenBroadcast b s
  | .getListenBroadcast => Sys2Proof.Machine.execGetListenBroadcast s
  | .isOfInterest sel => Sys2Proof.Machine.execIsOfInterest sel s
  | .rxFrameStart notRepeated priority => Sys2Proof.Machine.execRxFrameStart notRepeated priority s
  | .rxResetIndication => Sys2Proof.Machine.execRxResetIndication s
  | .rxPositiveConfirmation => Sys2Proof.Machine.execRxPositiveConfirmation s
  | .rxNegativeConfirmation => Sys2Proof.Machine.execRxNegativeConfirmation s
  | .txTagContinue idx => Sys2Proof.Machine.execTxTagContinue idx s
  | .txTagEnd idx => Sys2Proof.Machine.execTxTagEnd idx s
  | .txAck => Sys2Proof.Machine.execTxAck s
  | .txNotAddressed => Sys2Proof.Machine.execTxNotAddressed s
  | .apciGroupRead data6 => Sys2Proof.Machine.execApciGroupRead data6 s
  | .apciGroupResponse data6 => Sys2Proof.Machine.execApciGroupResponse data6 s
  | .apciGroupWrite data6 => Sys2Proof.Machine.execApciGroupWrite data6 s
  | .apciIndividualAddrWrite data6 => Sys2Proof.Machine.execApciIndividualAddrWrite data6 s
  | .apciIndividualAddrRead data6 => Sys2Proof.Machine.execApciIndividualAddrRead data6 s
  | .apciIndividualAddrResponse data6 => Sys2Proof.Machine.execApciIndividualAddrResponse data6 s
  | .apciMemoryRead data6 => Sys2Proof.Machine.execApciMemoryRead data6 s
  | .apciMemoryResponse data6 => Sys2Proof.Machine.execApciMemoryResponse data6 s
  | .apciMemoryWrite data6 => Sys2Proof.Machine.execApciMemoryWrite data6 s
  | .apciDeviceDescriptorRead data6 => Sys2Proof.Machine.execApciDeviceDescriptorRead data6 s
  | .apciDeviceDescriptorResponse data6 => Sys2Proof.Machine.execApciDeviceDescriptorResponse data6 s
  | .apciRestart data6 => Sys2Proof.Machine.execApciRestart data6 s
  | .apciAuthorizeRequest => Sys2Proof.Machine.execApciAuthorizeRequest s
  | .apciAuthorizeResponse => Sys2Proof.Machine.execApciAuthorizeResponse s
  | .apciPropertyRead => Sys2Proof.Machine.execApciPropertyRead s
  | .apciPropertyResponse => Sys2Proof.Machine.execApciPropertyResponse s
  | .apciPropertyWrite => Sys2Proof.Machine.execApciPropertyWrite s

end Sys2Proof.Machine
end

