-- ==== Sys2Proof/Machine/Fetch.lean ====
section
/-! DEFINITION. What one turn does: a word is fetched, decoded and run; a byte comes; a timeout passes; or the block
moves. Step.lean only calls this, so that a later repair can mend it. -/

namespace Sys2Proof.Machine

/-- An issued word: decoded in its space and run. Every value of OP is a command (30_encoding.md R92). A byte that is no
row of the table still moves: the channel delivers every byte value (60_exceptions.md R256) and the block writes
telegram bytes of every value (44_framer.md R202); an application code outside the table is UNKNOWN (30_encoding.md
R85). -/
def runWord (w : Issued) (s : State) : Out :=
  match w with
  | .command op sel x => exec (commandOf op.toNat (bufOfSel sel.toNat) x.toNat) s
  | .receive b =>
    match decodeReceive b with
    | .ok i => exec i s
    | .error _ => .next (s.chanDeliver b)
  | .transmit b =>
    match decodeTransmit b with
    | .ok i => exec i s
    | .error _ => .next (s.chanWrite b)
  | .apci a =>
    match decodeApci a.toNat with
    | .ok i => exec i s
    | .error _ => nameApp .unknown s

/-- One turn of the environment, or the block's own step when the list says nothing. -/
def takeTurn (s : State) : Out :=
  match s.env with
  | [] => .next s.blockStep
  | .block :: r => .next (s.setEnv r).blockStep
  | .issue w :: r => runWord w (s.setEnv r)
  | .deliver b :: r => .next ((s.setEnv r).chanDeliver b)
  | .timeout :: r => .next (s.setEnv r).chanTimeout

/-- The word a bare table word stands for, issued before everything else. -/
def issueTableWord (s : State) (nbits w : Nat) : State :=
  s.setEnv (.issue (tableWord nbits w) :: s.env)

end Sys2Proof.Machine
end

