-- ==== Sys2Proof/Machine/Step.lean ====
section
/-! DEFINITION. The step of the machine. -/

namespace Sys2Proof.Machine

/-- One step: the next turn of the environment, else the block's own next step. -/
def step (s : State) : Host.Outcome State Fault Refusal := takeTurn s

/-- The machine loads no program and has no program counter (10_state.md R32): a word is issued to it. This is `s`
with the table word `w` as the next word issued, so that the next step decodes and runs it (log 8). -/
def State.withFetchWord (s : State) (nbits w : Nat) : State := issueTableWord s nbits w

end Sys2Proof.Machine
end

