-- ==== Sys2Proof/Safety.lean ====
section
/-! DEFINITION. What a good run is, and the words the statements are written in.

A good state is one a run can reach: its memory is canonical, its listen count is a count, SEQ keeps an index inside
the telegram it works on, and the result port is empty while a command runs. -/

namespace Sys2Proof

/-! ## The operation code and the buffer of a command -/

/-- OP, bits 5 to 0 of the first byte of the word. -/
def Instr.op (i : Instr) : Nat := ofLeBytes (encode i) % 64

/-- The bits of byte `k` a setter of 41_codec_fields.md writes, by its pseudocode; 0 for a byte it does not write and
for an instruction that is no setter. -/
def Instr.writtenBits (i : Instr) (b : Buf) (k : Nat) : Byte :=
  match i with
  | .setByte s idx _ => if b = s ∧ k = idx.toNat then 0xFF#8 else 0x00#8
  | .setPayloadLength s _ => if b = s ∧ k = 5 then 0x0F#8 else 0x00#8
  | .setRepeated s _ => if b = s ∧ k = 0 then 0x20#8 else 0x00#8
  | .setPriority s _ => if b = s ∧ k = 0 then 0x0C#8 else 0x00#8
  | .setSourceAddress s _ _ _ => if b = s ∧ (k = 1 ∨ k = 2) then 0xFF#8 else 0x00#8
  | .setTargetGroup s _ _ _ | .setTargetIndividual s _ _ _ =>
    if b = s ∧ (k = 3 ∨ k = 4) then 0xFF#8 else if b = s ∧ k = 5 then 0x80#8 else 0x00#8
  | .setTargetType s _ => if b = s ∧ k = 5 then 0x80#8 else 0x00#8
  | .setRoutingCounter s _ => if b = s ∧ k = 5 then 0x70#8 else 0x00#8
  | .setCommType s _ => if b = s ∧ k = 6 then 0xC0#8 else 0x00#8
  | .setSequenceNumber s _ => if b = s ∧ k = 6 then 0x3C#8 else 0x00#8
  | .setControlData s _ => if b = s ∧ k = 6 then 0x03#8 else 0x00#8
  | .setCommand s _ => if b = s ∧ k = 6 then 0x03#8 else if b = s ∧ k = 7 then 0xC0#8 else 0x00#8
  | .setExtendedCommand s _ | .setFirstDataByte s _ => if b = s ∧ k = 7 then 0x3F#8 else 0x00#8
  | _ => 0x00#8

/-- The setters of 41_codec_fields.md that write one field or one byte. -/
def Instr.isFieldSetter : Instr → Bool
  | .setByte _ _ _ | .setPayloadLength _ _ | .setRepeated _ _ | .setPriority _ _ | .setSourceAddress _ _ _ _
  | .setTargetGroup _ _ _ _ | .setTargetIndividual _ _ _ _ | .setTargetType _ _ | .setRoutingCounter _ _
  | .setCommType _ _ | .setSequenceNumber _ _ | .setControlData _ _ | .setCommand _ _ | .setExtendedCommand _ _
  | .setFirstDataByte _ _ => true
  | _ => false

/-- The buffer a codec, checksum or datapoint command names. -/
def Instr.buffer : Instr → Option Buf
  | .clear s | .getByte s _ | .setByte s _ _ | .getTotalLength s | .setPayloadLength s _ | .getPayloadLength s
  | .setRepeated s _ | .isRepeated s | .setPriority s _ | .getPriority s | .setSourceAddress s _ _ _
  | .getSourceAddress s | .setTargetGroup s _ _ _ | .getTargetGroup s | .setTargetIndividual s _ _ _
  | .getTargetIndividual s | .setTargetType s _ | .isTargetGroup s | .setRoutingCounter s _ | .getRoutingCounter s
  | .setCommType s _ | .getCommType s | .setSequenceNumber s _ | .getSequenceNumber s | .setControlData s _
  | .getControlData s | .setCommand s _ | .getCommand s | .setExtendedCommand s _ | .getExtendedCommand s
  | .setFirstDataByte s _ | .getFirstDataByte s | .decodeAppCommand s | .calcChecksum s | .createChecksum s
  | .verifyChecksum s | .getChecksum s | .getBool s | .set1ByteInt s _ | .get1ByteInt s | .set2ByteFloat s _
  | .get2ByteFloat s | .set4ByteFloat s _ | .get4ByteFloat s | .set14ByteText s _ | .get14ByteText s
  | .setTime s _ _ _ _ | .getTime s => some s
  | _ => none

/-- The commands that touch the channel (10_state.md R32). -/
def Instr.usesChannel : Instr → Bool
  | .readByteTimeout | .sendFrame _ | .sendAck | .sendNotAddressed | .pollEvent => true
  | _ => false

end Sys2Proof

namespace Sys2Proof.Machine

/-! ## The invariant -/

/-- The index and the buffer SEQ keeps (10_state.md R33): a sent or received byte lies inside its telegram, the nested
send works on RPL, an acknowledgement is one of the two bytes of 44_framer.md R206, R207, a byte to peek at is there,
and a byte to be consumed by POLL_EVENT is still the one it classified (44_framer.md R196, 45_session_rx.md R232). -/
def State.seqOk (s : State) : Prop :=
  match s.seq with
  | .tx sel i _ c => i < s.totalLength sel ∧ (c = .pollEvent → sel = .reply)
  | .pRx i => i < s.totalLength .incoming
  | .ackTx b => b = 0x11#8 ∨ b = 0x10#8
  | .pCls .peek => s.rxq ≠ []
  | .pCls (.read e) =>
    ∃ b q, s.rxq = b :: q ∧ if b = 0x03#8 then e = 1#3 else b ||| 0x2C#8 ≠ 0xBC#8 ∧ e = 4#3
  | .idle | .rd | .conf _ | .dly _ | .pCls .available | .pAck _ | .pNcd _ => True

/-- The invariant of every step. -/
structure State.Inv (s : State) : Prop where
  /-- the memory is in its canonical form, with cells only where the two buffers have bytes (20_memory.md R50) -/
  mem : s.mem.wf = true
  /-- LISTEN_COUNT holds 0 to 48 (10_state.md R26) -/
  listenCount : s.listenCount.toNat ≤ 48
  seq : s.seqOk
  /-- no result stands on the port while a command runs (10_state.md R34) -/
  port : s.seq ≠ .idle → s.result = none

/-! ## Frames -/

/-- `t` is `s` with `r` on the result port and perhaps other buffer bytes; every other piece of state is as it was. -/
def OnlyBuffers (s t : State) (r : Result) : Prop := t = (s.setMem t.mem).setResult (some r)

/-- What address `a` reads as after `v` is stored in byte `i` of a buffer of `s` and nothing else is. -/
def State.readPatched (s : State) (sel : Buf) (i : Nat) (v : Byte) (a : Nat) : Byte :=
  if a = addr sel i then v else s.mem.read a

/-- The command `i`, issued to `s`, completes in one step with `r` on the result port; afterwards address `a` reads as
`f a`, and every other piece of state is as it was. -/
def Completes (i : Instr) (s : State) (r : Result) (f : Nat → Byte) : Prop :=
  ∃ t, exec i s = .next t ∧ OnlyBuffers s t r ∧ ∀ a, t.mem.read a = f a

/-- The two session registers, the listen set and its count: what POLL_EVENT never writes (45_session_rx.md R237). -/
def SameSession (s t : State) : Prop :=
  t.ownAddr = s.ownAddr ∧ t.listen = s.listen ∧ t.listenCount = s.listenCount ∧ t.listenBcast = s.listenBcast

/-- `k` steps of the machine. -/
def runs (k : Nat) (s : State) : Out := Sys2Proof.core.run k s

/-! ## The spec's own formulas -/

/-- DECODE_APP_COMMAND's result code from `cmd4` and `ext6`, as 41_codec_fields.md R126 lists it with the codes of
30_encoding.md R82. -/
def appCodeOf (c x : Nat) : BitVec 5 :=
  if c = 0b1111 then
    (if x = 0b010001 then 13#5 else if x = 0b010010 then 14#5 else if x = 0b010101 then 15#5
      else if x = 0b010110 then 16#5 else if x = 0b010111 then 17#5 else 0#5)
  else if c = 0b0000 then 1#5 else if c = 0b0001 then 2#5 else if c = 0b0010 then 3#5
  else if c = 0b0011 then 4#5 else if c = 0b0100 then 5#5 else if c = 0b0101 then 6#5
  else if c = 0b1000 then 7#5 else if c = 0b1001 then 8#5 else if c = 0b1010 then 9#5
  else if c = 0b1100 then 10#5 else if c = 0b1101 then 11#5 else if c = 0b1110 then 12#5 else 0#5

/-- The XOR of 0xFF with bytes 0 to `m - 1` of a buffer (42_checksum.md R150). -/
def State.xorBelow (s : State) (sel : Buf) (m : Nat) : Byte :=
  (List.range m).foldl (fun acc k => acc ^^^ s.byte sel k) 0xFF#8

/-- The telegram of a buffer as it goes on the wire: before each byte its send tag (44_framer.md R202). -/
def State.tagged (s : State) (sel : Buf) : List Byte :=
  (List.range (s.totalLength sel)).flatMap (fun i =>
    [if i + 1 = s.totalLength sel then 0x40#8 ||| BitVec.ofNat 8 i else 0x80#8 ||| BitVec.ofNat 8 i, s.byte sel i])

/-- The group address `g` is a valid entry of the listen set (10_state.md R26). -/
def State.listens (s : State) (g : BitVec 16) : Prop := ∃ k : Fin 48, k.val < s.listenCount.toNat ∧ s.listen[k] = g

/-- The interest of a telegram with these target bytes and this byte 5 (45_session_rx.md R230). -/
def State.wants (s : State) (b3 b4 b5 : Byte) : Prop :=
  if b5.getLsbD 7 then s.listens (b3 ++ b4) ∨ (b3 ++ b4 = 0x0000#16 ∧ s.listenBcast = 1#1)
  else b3 ++ b4 = s.ownAddr

/-- How many bytes a received telegram has: 6 + n + 1 with `n` from its byte 5 (45_session_rx.md R233). A telegram cut
off before byte 5 needs at least 8. -/
def wireLength (p : List Byte) : Nat := (p.getD 5 0x00#8 &&& 0x0F#8).toNat + 8

/-- A turn in which no word is issued. -/
def Turn.quiet : Turn → Bool
  | .issue _ => false
  | .block | .deliver _ | .timeout => true

/-- The bytes the channel delivers in a list of turns. -/
def delivered : List Turn → List Byte
  | [] => []
  | .deliver b :: r => b :: delivered r
  | .block :: r | .timeout :: r | .issue _ :: r => delivered r

/-- A byte that ends the wait for a confirmation (44_framer.md R203). -/
def isConfirmation (b : Byte) : Bool := b == 0x8B#8 || b == 0x0B#8

end Sys2Proof.Machine
end

