-- ==== Sys2Proof/Certificates/Slice0/Obligations.lean ====
section
/-! DEFINITION. The statements for the provers. Each docstring names the rules of spec/ it formalises.

`Completes i s r f` (Safety.lean) says that the command runs to a next state in which `r` is on the result port, address
`a` reads as `f a` and every other piece of state is as it was. `i.op` is the operation code of 30_encoding.md R91. -/

open Sys2Proof Sys2Proof.Machine

/-! ## The codec fields (41_codec_fields.md) -/

/-- R100: CLEAR writes the default telegram, all 23 bytes of its buffer, and nothing else. (The routing counter 6 in byte 5
is the spec's decision D5.) -/
def Obligations.ClearWritesDefaultTelegram : Prop :=
  ∀ (sel : Buf) (s : State), s.seq = .idle →
    (Instr.clear sel).op = 0x00 ∧
    Completes (.clear sel) s .empty (fun a =>
      if a = addr sel 0 then 0xBC#8
      else if a = addr sel 5 then 0xE1#8
      else if addr sel 0 ≤ a ∧ a ≤ addr sel 22 then 0x00#8
      else s.mem.read a)

/-- R101, R102, R253: GET_BYTE reads and SET_BYTE writes one byte of index 0 to 22; an index of 23 to 31 is refused.
(The accessors and the refusal are the spec's decisions D1 and D15.) -/
def Obligations.RawByteAccess : Prop :=
  ∀ (sel : Buf) (idx : BitVec 5) (val : Byte) (s : State), s.seq = .idle →
    (Instr.getByte sel idx).op = 0x01 ∧ (Instr.setByte sel idx val).op = 0x02 ∧
    (idx.toNat ≤ 22 →
      exec (.getByte sel idx) s = .next (s.setResult (some (.byte (s.byte sel idx.toNat)))) ∧
      Completes (.setByte sel idx val) s .empty (s.readPatched sel idx.toNat val)) ∧
    (23 ≤ idx.toNat →
      exec (.getByte sel idx) s = .refused .indexOutOfRange ∧
      exec (.setByte sel idx val) s = .refused .indexOutOfRange)

/-- R103, R104, R105, R254: the two length getters, the length setter for 1 to 16, its refusal outside (the spec's decision
D14), and the law that the length set is the length got. -/
def Obligations.LengthOperations : Prop :=
  ∀ (sel : Buf) (n : BitVec 5) (s : State), s.seq = .idle →
    (Instr.setPayloadLength sel n).op = 0x04 ∧ (Instr.getPayloadLength sel).op = 0x05 ∧
    (Instr.getTotalLength sel).op = 0x03 ∧
    (1 ≤ n.toNat ∧ n.toNat ≤ 16 →
      Completes (.setPayloadLength sel n) s .empty
        (s.readPatched sel 5 ((s.byte sel 5 &&& 0xF0#8) ||| BitVec.ofNat 8 (n.toNat - 1))) ∧
      ∀ t, exec (.setPayloadLength sel n) s = .next t →
        exec (.getPayloadLength sel) t = .next (t.setResult (some (.code5 n)))) ∧
    (n.toNat = 0 ∨ 17 ≤ n.toNat → exec (.setPayloadLength sel n) s = .refused .payloadLengthOutOfRange) ∧
    exec (.getPayloadLength sel) s =
      .next (s.setResult (some (.code5 ((s.byte sel 5 &&& 0x0F#8).setWidth 5 + 1#5)))) ∧
    exec (.getTotalLength sel) s =
      .next (s.setResult (some (.code5 (6#5 + ((s.byte sel 5 &&& 0x0F#8).setWidth 5 + 1#5) + 1#5)))) ∧
    s.payloadLength sel = (s.byte sel 5 &&& 0x0F#8).toNat + 1 ∧
    s.totalLength sel = 6 + s.payloadLength sel + 1 ∧
    1 ≤ s.payloadLength sel ∧ s.payloadLength sel ≤ 16

/-- R106 to R109: the repeat flag (bit 5 of byte 0, 1 when NOT repeated) and the priority (bits 3 to 2). -/
def Obligations.ControlOctetFields : Prop :=
  ∀ (sel : Buf) (r : BitVec 1) (p : BitVec 2) (s : State), s.seq = .idle →
    (Instr.setRepeated sel r).op = 0x06 ∧ (Instr.isRepeated sel).op = 0x07 ∧
    (Instr.setPriority sel p).op = 0x08 ∧ (Instr.getPriority sel).op = 0x09 ∧
    Completes (.setRepeated sel r) s .empty
      (s.readPatched sel 0 ((s.byte sel 0 &&& 0xDF#8) ||| if r = 1#1 then 0x00#8 else 0x20#8)) ∧
    Completes (.setPriority sel p) s .empty
      (s.readPatched sel 0 ((s.byte sel 0 &&& 0xF3#8) ||| (p.setWidth 8 <<< 2))) ∧
    exec (.isRepeated sel) s =
      .next (s.setResult (some (.flag (if s.byte sel 0 &&& 0x20#8 = 0x00#8 then 1#1 else 0#1)))) ∧
    exec (.getPriority sel) s = .next (s.setResult (some (.code2 ((s.byte sel 0 >>> 2).setWidth 2))))

/-- R110, R112, R114: the address setters write two bytes, and a target setter the target-type flag too (the
spec's decision D29). -/
def Obligations.AddressSetters : Prop :=
  ∀ (sel : Buf) (area line : BitVec 4) (main : BitVec 5) (middle : BitVec 3) (low : Byte) (s : State), s.seq = .idle →
    (Instr.setSourceAddress sel area line low).op = 0x0A ∧ (Instr.setTargetGroup sel main middle low).op = 0x0C ∧
    (Instr.setTargetIndividual sel area line low).op = 0x0E ∧
    Completes (.setSourceAddress sel area line low) s .empty (fun a =>
      if a = addr sel 1 then (area.setWidth 8 <<< 4) ||| line.setWidth 8
      else if a = addr sel 2 then low else s.mem.read a) ∧
    Completes (.setTargetGroup sel main middle low) s .empty (fun a =>
      if a = addr sel 3 then (main.setWidth 8 <<< 3) ||| middle.setWidth 8
      else if a = addr sel 4 then low
      else if a = addr sel 5 then s.byte sel 5 ||| 0x80#8 else s.mem.read a) ∧
    Completes (.setTargetIndividual sel area line low) s .empty (fun a =>
      if a = addr sel 3 then (area.setWidth 8 <<< 4) ||| line.setWidth 8
      else if a = addr sel 4 then low
      else if a = addr sel 5 then s.byte sel 5 &&& 0x7F#8 else s.mem.read a)

/-- R111, R113, R115: the address getters read both bytes, whatever the target-type flag says (the spec's decision D29), and
the source address got after one is set is the one set. -/
def Obligations.AddressGetters : Prop :=
  ∀ (sel : Buf) (area line : BitVec 4) (member : Byte) (s : State), s.seq = .idle →
    (Instr.getSourceAddress sel).op = 0x0B ∧ (Instr.getTargetGroup sel).op = 0x0D ∧
    (Instr.getTargetIndividual sel).op = 0x0F ∧
    exec (.getSourceAddress sel) s = .next (s.setResult (some
      (.individual ((s.byte sel 1 >>> 4).setWidth 4) ((s.byte sel 1).setWidth 4) (s.byte sel 2)))) ∧
    exec (.getTargetGroup sel) s = .next (s.setResult (some
      (.group ((s.byte sel 3 >>> 3).setWidth 5) ((s.byte sel 3).setWidth 3) (s.byte sel 4)))) ∧
    exec (.getTargetIndividual sel) s = .next (s.setResult (some
      (.individual ((s.byte sel 3 >>> 4).setWidth 4) ((s.byte sel 3).setWidth 4) (s.byte sel 4)))) ∧
    ∀ t, exec (.setSourceAddress sel area line member) s = .next t →
      exec (.getSourceAddress sel) t = .next (t.setResult (some (.individual area line member)))

/-- R116 to R119: the target type (bit 7 of byte 5) and the routing counter (bits 6 to 4). -/
def Obligations.ByteFiveFields : Prop :=
  ∀ (sel : Buf) (g : BitVec 1) (rc : BitVec 3) (s : State), s.seq = .idle →
    (Instr.setTargetType sel g).op = 0x10 ∧ (Instr.isTargetGroup sel).op = 0x11 ∧
    (Instr.setRoutingCounter sel rc).op = 0x12 ∧ (Instr.getRoutingCounter sel).op = 0x13 ∧
    Completes (.setTargetType sel g) s .empty
      (s.readPatched sel 5 ((s.byte sel 5 &&& 0x7F#8) ||| (g.setWidth 8 <<< 7))) ∧
    Completes (.setRoutingCounter sel rc) s .empty
      (s.readPatched sel 5 ((s.byte sel 5 &&& 0x8F#8) ||| (rc.setWidth 8 <<< 4))) ∧
    exec (.isTargetGroup sel) s = .next (s.setResult (some (.flag ((s.byte sel 5 >>> 7).setWidth 1)))) ∧
    exec (.getRoutingCounter sel) s = .next (s.setResult (some (.code3 ((s.byte sel 5 >>> 4).setWidth 3))))

/-- R120 to R125: byte 6, the communication type (bits 7 to 6), sequence number (5 to 2) and control data (1 to 0). -/
def Obligations.TransportControlFields : Prop :=
  ∀ (sel : Buf) (ct : BitVec 2) (sn : BitVec 4) (cd : BitVec 2) (s : State), s.seq = .idle →
    (Instr.setCommType sel ct).op = 0x14 ∧ (Instr.getCommType sel).op = 0x15 ∧
    (Instr.setSequenceNumber sel sn).op = 0x16 ∧ (Instr.getSequenceNumber sel).op = 0x17 ∧
    (Instr.setControlData sel cd).op = 0x18 ∧ (Instr.getControlData sel).op = 0x19 ∧
    Completes (.setCommType sel ct) s .empty
      (s.readPatched sel 6 ((s.byte sel 6 &&& 0x3F#8) ||| (ct.setWidth 8 <<< 6))) ∧
    Completes (.setSequenceNumber sel sn) s .empty
      (s.readPatched sel 6 ((s.byte sel 6 &&& 0xC3#8) ||| (sn.setWidth 8 <<< 2))) ∧
    Completes (.setControlData sel cd) s .empty
      (s.readPatched sel 6 ((s.byte sel 6 &&& 0xFC#8) ||| cd.setWidth 8)) ∧
    exec (.getCommType sel) s = .next (s.setResult (some (.code2 ((s.byte sel 6 >>> 6).setWidth 2)))) ∧
    exec (.getSequenceNumber sel) s = .next (s.setResult (some (.code4 ((s.byte sel 6 >>> 2).setWidth 4)))) ∧
    exec (.getControlData sel) s = .next (s.setResult (some (.code2 ((s.byte sel 6).setWidth 2))))

/-- R127 to R132: the 4-bit command over bytes 6 and 7, and the six bits after it under both their names. -/
def Obligations.ApplicationControlFields : Prop :=
  ∀ (sel : Buf) (c : BitVec 4) (x : BitVec 6) (s : State), s.seq = .idle →
    (Instr.setCommand sel c).op = 0x1A ∧ (Instr.getCommand sel).op = 0x1B ∧
    (Instr.setExtendedCommand sel x).op = 0x1C ∧ (Instr.getExtendedCommand sel).op = 0x1D ∧
    (Instr.setFirstDataByte sel x).op = 0x1E ∧ (Instr.getFirstDataByte sel).op = 0x1F ∧
    Completes (.setCommand sel c) s .empty (fun a =>
      if a = addr sel 6 then (s.byte sel 6 &&& 0xFC#8) ||| (c.setWidth 8 >>> 2)
      else if a = addr sel 7 then (s.byte sel 7 &&& 0x3F#8) ||| (c.setWidth 8 <<< 6) else s.mem.read a) ∧
    Completes (.setExtendedCommand sel x) s .empty (s.readPatched sel 7 ((s.byte sel 7 &&& 0xC0#8) ||| x.setWidth 8)) ∧
    Completes (.setFirstDataByte sel x) s .empty (s.readPatched sel 7 ((s.byte sel 7 &&& 0xC0#8) ||| x.setWidth 8)) ∧
    exec (.getCommand sel) s = .next (s.setResult (some
      (.code4 (((s.byte sel 6).setWidth 4 <<< 2) ||| (s.byte sel 7 >>> 6).setWidth 4)))) ∧
    exec (.getExtendedCommand sel) s = .next (s.setResult (some (.code6 ((s.byte sel 7).setWidth 6)))) ∧
    exec (.getFirstDataByte sel) s = .next (s.setResult (some (.code6 ((s.byte sel 7).setWidth 6))))

/-- R126: DECODE_APP_COMMAND names the command of a data telegram of payload length 2 or more, and answers UNKNOWN
(0) for a control telegram, for payload length 1 (the spec's decision D27) and for every code outside the table (R85). -/
def Obligations.DecodeAppCommandNames : Prop :=
  ∀ (sel : Buf) (s : State), s.seq = .idle →
    (Instr.decodeAppCommand sel).op = 0x20 ∧
    exec (.decodeAppCommand sel) s = .next (s.setResult (some (.code5
      (if s.byte sel 6 >>> 6 = 0b10#8 ∨ s.byte sel 6 >>> 6 = 0b11#8 ∨ s.byte sel 5 &&& 0x0F#8 = 0#8 then 0#5
       else appCodeOf ((s.byte sel 6 &&& 0x03#8).toNat * 4 + (s.byte sel 7 >>> 6).toNat)
         (s.byte sel 7 &&& 0x3F#8).toNat))))

/-- R133, R134: the extended command and the first data byte are the same six bits, and the control data are the top
two bits of the command. -/
def Obligations.SharedFields : Prop :=
  ∀ (sel : Buf) (x : BitVec 6) (s t u : State) (cd : BitVec 2) (c : BitVec 4), s.seq = .idle →
    exec (.setExtendedCommand sel x) s = exec (.setFirstDataByte sel x) s ∧
    exec (.getExtendedCommand sel) s = exec (.getFirstDataByte sel) s ∧
    (exec (.getControlData sel) s = .next t → exec (.getCommand sel) s = .next u →
      t.result = some (.code2 cd) → u.result = some (.code4 c) → cd = c.extractLsb' 2 2)

/-- R58 (and R136): a field setter writes only the bits of its field. The bits are the ones its pseudocode names, listed
in `Instr.writtenBits`. -/
def Obligations.SettersKeepOtherBits : Prop :=
  ∀ (i : Instr) (s t : State), i.isFieldSetter = true → exec i s = .next t →
    ∀ (b : Buf) (k : Nat), k ≤ 22 →
      t.byte b k &&& ~~~i.writtenBits b k = s.byte b k &&& ~~~i.writtenBits b k

/-- Every field got after its setter is the value set (the laws of R104 and R111 and the pairs of 30_encoding.md R80): each of
the fourteen setter and getter pairs of 41_codec_fields.md, and the raw byte. -/
def Obligations.FieldsReadBack : Prop :=
  ∀ (sel : Buf) (s t : State),
    (∀ idx val, exec (.setByte sel idx val) s = .next t →
      exec (.getByte sel idx) t = .next (t.setResult (some (.byte val)))) ∧
    (∀ n, exec (.setPayloadLength sel n) s = .next t →
      exec (.getPayloadLength sel) t = .next (t.setResult (some (.code5 n)))) ∧
    (∀ a l m, exec (.setSourceAddress sel a l m) s = .next t →
      exec (.getSourceAddress sel) t = .next (t.setResult (some (.individual a l m)))) ∧
    (∀ r, exec (.setRepeated sel r) s = .next t →
      exec (.isRepeated sel) t = .next (t.setResult (some (.flag r)))) ∧
    (∀ p, exec (.setPriority sel p) s = .next t →
      exec (.getPriority sel) t = .next (t.setResult (some (.code2 p)))) ∧
    (∀ m n l, exec (.setTargetGroup sel m n l) s = .next t →
      exec (.getTargetGroup sel) t = .next (t.setResult (some (.group m n l))) ∧
      exec (.isTargetGroup sel) t = .next (t.setResult (some (.flag 1#1)))) ∧
    (∀ m n l, exec (.setTargetIndividual sel m n l) s = .next t →
      exec (.getTargetIndividual sel) t = .next (t.setResult (some (.individual m n l))) ∧
      exec (.isTargetGroup sel) t = .next (t.setResult (some (.flag 0#1)))) ∧
    (∀ g, exec (.setTargetType sel g) s = .next t →
      exec (.isTargetGroup sel) t = .next (t.setResult (some (.flag g)))) ∧
    (∀ rc, exec (.setRoutingCounter sel rc) s = .next t →
      exec (.getRoutingCounter sel) t = .next (t.setResult (some (.code3 rc)))) ∧
    (∀ ct, exec (.setCommType sel ct) s = .next t →
      exec (.getCommType sel) t = .next (t.setResult (some (.code2 ct)))) ∧
    (∀ sn, exec (.setSequenceNumber sel sn) s = .next t →
      exec (.getSequenceNumber sel) t = .next (t.setResult (some (.code4 sn)))) ∧
    (∀ cd, exec (.setControlData sel cd) s = .next t →
      exec (.getControlData sel) t = .next (t.setResult (some (.code2 cd)))) ∧
    (∀ c, exec (.setCommand sel c) s = .next t →
      exec (.getCommand sel) t = .next (t.setResult (some (.code4 c)))) ∧
    (∀ x, exec (.setExtendedCommand sel x) s = .next t →
      exec (.getExtendedCommand sel) t = .next (t.setResult (some (.code6 x)))) ∧
    (∀ d, exec (.setFirstDataByte sel d) s = .next t →
      exec (.getFirstDataByte sel) t = .next (t.setResult (some (.code6 d))))

/-! ## The checksum (42_checksum.md) -/

/-- R150 to R154: the checksum computed, stored, compared and read. -/
def Obligations.ChecksumOperations : Prop :=
  ∀ (sel : Buf) (s : State), s.seq = .idle →
    (Instr.calcChecksum sel).op = 0x21 ∧ (Instr.createChecksum sel).op = 0x22 ∧
    (Instr.verifyChecksum sel).op = 0x23 ∧ (Instr.getChecksum sel).op = 0x24 ∧
    exec (.calcChecksum sel) s =
      .next (s.setResult (some (.byte (s.xorBelow sel (6 + s.payloadLength sel))))) ∧
    Completes (.createChecksum sel) s .empty
      (s.readPatched sel (6 + s.payloadLength sel) (s.xorBelow sel (6 + s.payloadLength sel))) ∧
    exec (.verifyChecksum sel) s = .next (s.setResult (some (.flag
      (if s.byte sel (6 + s.payloadLength sel) = s.xorBelow sel (6 + s.payloadLength sel) then 1#1 else 0#1)))) ∧
    exec (.getChecksum sel) s = .next (s.setResult (some (.byte (s.byte sel (6 + s.payloadLength sel)))))

/-- R155: a telegram verifies exactly when the XOR of bytes 0 to 6 + n inclusive is 0xFF, and always right after
CREATE_CHECKSUM. (`xorBelow` starts from 0xFF, so that XOR is 0xFF when `xorBelow` of all of them is 0.) -/
def Obligations.ChecksumRoundTrip : Prop :=
  ∀ (sel : Buf) (s t : State), s.seq = .idle →
    (exec (.verifyChecksum sel) s = .next (s.setResult (some (.flag 1#1))) ↔
      s.byte sel (6 + s.payloadLength sel) = s.xorBelow sel (6 + s.payloadLength sel)) ∧
    (exec (.verifyChecksum sel) s = .next (s.setResult (some (.flag 1#1))) ↔
      s.xorBelow sel (6 + s.payloadLength sel + 1) ^^^ 0xFF#8 = 0xFF#8) ∧
    (exec (.createChecksum sel) s = .next t →
      exec (.verifyChecksum sel) t = .next (t.setResult (some (.flag 1#1))))

/-- R156: in a telegram that verifies, one flipped bit of a declared byte or of the checksum byte is detected, and one
bit position flipped in two of them is not. A flip in the length field moves the checksum position, so byte 5 is here
only with its upper four bits. -/
def Obligations.ChecksumDetection : Prop :=
  ∀ (sel : Buf) (s : State) (j k b : Nat), s.seq = .idle →
    s.byte sel (6 + s.payloadLength sel) = s.xorBelow sel (6 + s.payloadLength sel) →
    j ≤ 6 + s.payloadLength sel → k ≤ 6 + s.payloadLength sel → b < 8 → (j = 5 → 4 ≤ b) → (k = 5 → 4 ≤ b) →
    (∀ t, exec (.setByte sel (BitVec.ofNat 5 j) (s.byte sel j ^^^ (1#8 <<< b))) s = .next t →
      exec (.verifyChecksum sel) t = .next (t.setResult (some (.flag 0#1)))) ∧
    (j ≠ k → ∀ t u, exec (.setByte sel (BitVec.ofNat 5 j) (s.byte sel j ^^^ (1#8 <<< b))) s = .next t →
      exec (.setByte sel (BitVec.ofNat 5 k) (s.byte sel k ^^^ (1#8 <<< b))) t = .next u →
      exec (.verifyChecksum sel) u = .next (u.setResult (some (.flag 1#1))))

/-! ## Datapoints (43_datapoint.md) -/

/-- R163, R171, R173, R176 (and R161): an encoder sets the payload length its type requires and writes its value bytes
from byte 8; no other byte changes. -/
def Obligations.DatapointEncoders : Prop :=
  ∀ (sel : Buf) (v : Byte) (f : BitVec 32) (x : Vector Byte 14) (wd : BitVec 3) (h : BitVec 5) (mi sec : BitVec 6)
    (s : State), s.seq = .idle →
    (Instr.set1ByteInt sel v).op = 0x26 ∧ (Instr.set4ByteFloat sel f).op = 0x2A ∧
    (Instr.set14ByteText sel x).op = 0x2C ∧ (Instr.setTime sel wd h mi sec).op = 0x2E ∧
    Completes (.set1ByteInt sel v) s .empty (fun a =>
      if a = addr sel 5 then (s.byte sel 5 &&& 0xF0#8) ||| 0x02#8
      else if a = addr sel 8 then v else s.mem.read a) ∧
    Completes (.set4ByteFloat sel f) s .empty (fun a =>
      if a = addr sel 5 then (s.byte sel 5 &&& 0xF0#8) ||| 0x05#8
      else if a = addr sel 8 then (f >>> 24).setWidth 8
      else if a = addr sel 9 then (f >>> 16).setWidth 8
      else if a = addr sel 10 then (f >>> 8).setWidth 8
      else if a = addr sel 11 then f.setWidth 8 else s.mem.read a) ∧
    Completes (.set14ByteText sel x) s .empty (fun a =>
      if a = addr sel 5 then (s.byte sel 5 &&& 0xF0#8) ||| 0x0F#8
      else if addr sel 8 ≤ a ∧ a ≤ addr sel 21 then x.toList.getD (a - addr sel 8) 0x00#8 else s.mem.read a) ∧
    Completes (.setTime sel wd h mi sec) s .empty (fun a =>
      if a = addr sel 5 then (s.byte sel 5 &&& 0xF0#8) ||| 0x04#8
      else if a = addr sel 8 then (wd.setWidth 8 <<< 5) ||| h.setWidth 8
      else if a = addr sel 9 then mi.setWidth 8
      else if a = addr sel 10 then sec.setWidth 8 else s.mem.read a)

/-- R162, R164, R172, R174, R177 with R178: a decoder whose type's length is the telegram's decodes its value bytes; on
any other length it answers its invalid value. It writes nothing. -/
def Obligations.DatapointDecoders : Prop :=
  ∀ (sel : Buf) (s : State), s.seq = .idle →
    (Instr.getBool sel).op = 0x25 ∧ (Instr.get1ByteInt sel).op = 0x27 ∧ (Instr.get4ByteFloat sel).op = 0x2B ∧
    (Instr.get14ByteText sel).op = 0x2D ∧ (Instr.getTime sel).op = 0x2F ∧
    exec (.getBool sel) s = .next (s.setResult (some (.flag
      (if s.payloadLength sel = 2 then (s.byte sel 7).setWidth 1 else 0#1)))) ∧
    exec (.get1ByteInt sel) s = .next (s.setResult (some (.byte
      (if s.payloadLength sel = 3 then s.byte sel 8 else 0x00#8)))) ∧
    exec (.get4ByteFloat sel) s = .next (s.setResult (some (.word32
      (if s.payloadLength sel = 6 then ((s.byte sel 8 ++ s.byte sel 9) ++ s.byte sel 10) ++ s.byte sel 11
       else 0x00000000#32)))) ∧
    exec (.get14ByteText sel) s = .next (s.setResult (some (.text
      (if s.payloadLength sel = 16 then Vector.ofFn (fun k : Fin 14 => s.byte sel (8 + k.val))
       else Vector.replicate 14 0x00#8)))) ∧
    exec (.getTime sel) s = .next (s.setResult (some
      (if s.payloadLength sel = 5 then
        .time ((s.byte sel 8 >>> 5).setWidth 3) ((s.byte sel 8).setWidth 5) ((s.byte sel 9).setWidth 6)
          ((s.byte sel 10).setWidth 6)
       else .time 0#3 0#5 0#6 0#6)))

/-- Every value but the 2-byte float decodes to the value encoded (from R162 to R177). -/
def Obligations.DatapointsReadBack : Prop :=
  ∀ (sel : Buf) (s t : State),
    (∀ v, exec (.set1ByteInt sel v) s = .next t →
      exec (.get1ByteInt sel) t = .next (t.setResult (some (.byte v)))) ∧
    (∀ f, exec (.set4ByteFloat sel f) s = .next t →
      exec (.get4ByteFloat sel) t = .next (t.setResult (some (.word32 f)))) ∧
    (∀ x, exec (.set14ByteText sel x) s = .next t →
      exec (.get14ByteText sel) t = .next (t.setResult (some (.text x)))) ∧
    (∀ wd h mi sec, exec (.setTime sel wd h mi sec) s = .next t →
      exec (.getTime sel) t = .next (t.setResult (some (.time wd h mi sec)))) ∧
    (∀ d : BitVec 6, s.payloadLength sel = 2 → exec (.setFirstDataByte sel d) s = .next t →
      exec (.getBool sel) t = .next (t.setResult (some (.flag (d.setWidth 1)))))

/-- R167 with R165, R166: SET_2BYTE_FLOAT of a finite value whose hundredfold is at most 2047 * 2^15 in magnitude. With
`n` that magnitude in units of 2^-149: `E` is the least exponent whose range holds it, the mantissa magnitude `q` is
`n / 2^(149+E)` to the nearest, halves away from zero (FLOAT16_SCALE = EXACT and FLOAT16_TIES = AWAY, the defaults of
00_scope.md R9, decisions D6, D7 and D9), and bytes 8 and 9 hold sign, E and the low eleven bits of the signed mantissa. -/
def Obligations.Float16Encodes : Prop :=
  ∀ (sel : Buf) (f : BitVec 32) (E : Nat) (s : State), s.seq = .idle →
    b32Finite f = true → E ≤ 15 → 100 * b32Magnitude f ≤ 2047 * 2 ^ (149 + E) →
    (∀ e, e < E → 2047 * 2 ^ (149 + e) < 100 * b32Magnitude f) →
    ∀ q M : Nat, q = (2 * (100 * b32Magnitude f) + 2 ^ (149 + E)) / (2 * 2 ^ (149 + E)) →
      M = (if f.getLsbD 31 = true ∧ q ≠ 0 then 4096 - q else q) →
      (Instr.set2ByteFloat sel f).op = 0x28 ∧ q ≤ 2047 ∧
      Completes (.set2ByteFloat sel f) s .empty (fun a =>
        if a = addr sel 5 then (s.byte sel 5 &&& 0xF0#8) ||| 0x03#8
        else if a = addr sel 8 then BitVec.ofNat 8 (M / 2048 * 128 + E * 8 + M % 2048 / 256)
        else if a = addr sel 9 then BitVec.ofNat 8 (M % 256) else s.mem.read a)

/-- R168: SET_2BYTE_FLOAT of NaN, of an infinity and of a value out of range still runs and sets n = 4; bytes 8 and 9 take
some values and no other byte changes (the spec's decision D8). The free values and the count `choices` of them are the
model's own form of the draw (log 7, DESIGN CHOICE). -/
def Obligations.Float16Draws : Prop :=
  ∀ (sel : Buf) (f : BitVec 32) (s : State), s.seq = .idle →
    (b32Finite f = false ∨ 2047 * 2 ^ (149 + 15) < 100 * b32Magnitude f) →
    ∃ (t : State) (b8 b9 : Byte), exec (.set2ByteFloat sel f) s = .next t ∧
      t = ((s.setMem t.mem).setResult (some .empty)).setChoices (s.choices + 2) ∧
      ∀ a, t.mem.read a =
        if a = addr sel 5 then (s.byte sel 5 &&& 0xF0#8) ||| 0x03#8
        else if a = addr sel 8 then b8 else if a = addr sel 9 then b9 else s.mem.read a

/-- R169 with R165: GET_2BYTE_FLOAT of any two value bytes, a hundred times the value: M * 2^E with M = m - 2048 S. -/
def Obligations.Float16Decodes : Prop :=
  ∀ (sel : Buf) (s : State), s.seq = .idle →
    (Instr.get2ByteFloat sel).op = 0x29 ∧
    exec (.get2ByteFloat sel) s = .next (s.setResult (some (.hundredths
      (if s.payloadLength sel = 4 then
        (((s.byte sel 8).toNat % 8 * 256 + (s.byte sel 9).toNat : Nat) - (2048 * ((s.byte sel 8).toNat / 128) : Nat) : Int)
          * 2 ^ ((s.byte sel 8).toNat / 8 % 16)
       else 0))))

/-- R180: a finite input in range, encoded and decoded, comes back within half the resolution 0.01 * 2^E of the exponent
E chosen; 0.0 encodes to M = 0, E = 0. `V` is a hundred times the decoded value and the input is sign * magnitude *
2^-149, so the bound |V/100 - x| ≤ 0.005 * 2^E, times 200 * 2^149, is the one below. -/
def Obligations.Float16RoundTrip : Prop :=
  ∀ (sel : Buf) (f : BitVec 32) (E : Nat) (s t u : State) (V X : Int),
    b32Finite f = true → E ≤ 15 → 100 * b32Magnitude f ≤ 2047 * 2 ^ (149 + E) →
    (∀ e, e < E → 2047 * 2 ^ (149 + e) < 100 * b32Magnitude f) →
    X = (if f.getLsbD 31 then -(b32Magnitude f : Int) else (b32Magnitude f : Int)) →
    exec (.set2ByteFloat sel f) s = .next t → exec (.get2ByteFloat sel) t = .next u →
    u.result = some (.hundredths V) →
    2 * |V * 2 ^ 149 - 100 * X| ≤ 2 ^ E * 2 ^ 149 ∧
    (b32Magnitude f = 0 → t.byte sel 8 = 0x00#8 ∧ t.byte sel 9 = 0x00#8)

/-! ## The framer (44_framer.md) -/

/-- R190, R192 with R89, R193: a frame start is one of exactly eight bytes, and the classifier tells reset indication,
frame start and other apart. -/
def Obligations.ByteClassifier : Prop :=
  ∀ (b : Byte) (s : State), s.seq = .idle →
    (Instr.isFrameStart b).op = 0x30 ∧ (Instr.classifyByte b).op = 0x31 ∧
    exec (.isFrameStart b) s = .next (s.setResult (some (.flag (if b ||| 0x2C#8 = 0xBC#8 then 1#1 else 0#1)))) ∧
    (b ||| 0x2C#8 = 0xBC#8 ↔
      b ∈ [0x90#8, 0x94#8, 0x98#8, 0x9C#8, 0xB0#8, 0xB4#8, 0xB8#8, 0xBC#8]) ∧
    exec (.classifyByte b) s = .next (s.setResult (some (.code2
      (if b = 0x03#8 then 2#2 else if b ||| 0x2C#8 = 0xBC#8 then 1#2 else 0#2)))) ∧
    ¬ (b = 0x03#8 ∧ b ||| 0x2C#8 = 0xBC#8)

/-- R198 with R197: READ_BYTE_TIMEOUT starts one bounded read. A queued byte is always what it returns: a byte delivered
meanwhile joins the queue behind it, and a timeout is possible only on an empty queue. With the queue empty it returns
the byte the channel delivers, or (0, 0x00) on a timeout; and where the channel's list says nothing it ends in one of
those two ways, which one being the channel's free choice. That the port is empty while the read runs (log 9) and that
`choices` counts the channel's free answers (log 6) are the model's choices. -/
def Obligations.ReadByteTimeout : Prop :=
  ∀ (s : State), s.seq = .idle →
    Instr.readByteTimeout.op = 0x32 ∧
    exec .readByteTimeout s = .next ((s.setResult none).setSeq .rd) ∧
    ∀ t, exec .readByteTimeout s = .next t →
      (∀ b q, s.rxq = b :: q → s.env = [] →
        step t = .next ((s.setRxq q).setResult (some (.readByte 1#1 b)))) ∧
      (∀ b q e, s.rxq = b :: q → s.env = .block :: e →
        step t = .next (((s.setEnv e).setRxq q).setResult (some (.readByte 1#1 b)))) ∧
      (∀ b q x e, s.rxq = b :: q → s.env = .deliver x :: e →
        step t = .next ((t.setEnv e).setRxq (b :: q ++ [x]))) ∧
      (∀ b q e, s.rxq = b :: q → s.env = .timeout :: e → step t = .next (t.setEnv e)) ∧
      (∀ b e, s.rxq = [] → s.env = .deliver b :: e →
        step t = .next ((s.setEnv e).setResult (some (.readByte 1#1 b)))) ∧
      (∀ e, s.rxq = [] → s.env = .timeout :: e →
        step t = .next ((s.setEnv e).setResult (some (.readByte 0#1 0x00#8)))) ∧
      (s.rxq = [] → s.env = [] →
        ∃ r, step t = .next ((s.setChoices (s.choices + 1)).setResult (some r)) ∧
          ((∃ b, r = .readByte 1#1 b) ∨ r = .readByte 0#1 0x00#8))

/-- R206, R207: SEND_ACK appends 0x11 and SEND_NOT_ADDRESSED 0x10 to TXLOG, wait the delay and return to IDLE; no other
state changes. That the port is empty meanwhile (log 9) and that acceptance, write and delay are one step each (log 17)
are the model's. -/
def Obligations.AcknowledgementsSent : Prop :=
  ∀ (s : State), s.seq = .idle → s.env = [] →
    Instr.sendAck.op = 0x34 ∧ Instr.sendNotAddressed.op = 0x35 ∧
    (∃ t, exec .sendAck s = .next t ∧ t = (s.setResult none).setSeq (.ackTx 0x11#8) ∧
      runs 2 t = .next ((s.setTxlog (s.txlog ++ [0x11#8])).setResult (some .empty))) ∧
    (∃ t, exec .sendNotAddressed s = .next t ∧ t = (s.setResult none).setSeq (.ackTx 0x10#8) ∧
      runs 2 t = .next ((s.setTxlog (s.txlog ++ [0x10#8])).setResult (some .empty)))

/-- R202 with R51: whatever the channel delivers meanwhile, transmission writes the tagged telegram, byte 0 first, as
it stands in the buffer, and then waits for the confirmation; nothing else changes but RXQ, which grows by what was
delivered. `turns` is any sequence of turns without an issued command whose last is the block's 2T-th. -/
def Obligations.TransmissionWritesTaggedTelegram : Prop :=
  ∀ (sel : Buf) (c : Caller) (s : State) (turns : List Turn),
    s.seq = .tx sel 0 .tag c → s.env = turns ++ [.block] → turns.all Turn.quiet = true →
    turns.count .block + 1 = 2 * s.totalLength sel →
    runs (turns.length + 1) s = .next
      ((((s.setEnv []).setTxlog (s.txlog ++ s.tagged sel)).setRxq (s.rxq ++ delivered turns)).setSeq (.conf c)) ∧
    (s.tagged sel).length = 2 * s.totalLength sel

/-- R203: while the block waits for a confirmation, 0x8B ends the wait with 1, 0x0B and a timeout with 0, and any other
byte is consumed and the wait goes on. -/
def Obligations.ConfirmationWait : Prop :=
  ∀ (c : Caller) (s : State), s.seq = .conf c →
    (∀ b q, s.env = [] → s.rxq = b :: q →
      step s = .next ((s.setRxq q).setSeq
        (if b = 0x8B#8 then .dly (.confirmed c 1#1) else if b = 0x0B#8 then .dly (.confirmed c 0#1) else .conf c))) ∧
    (∀ b e, s.env = .deliver b :: e → s.rxq = [] →
      step s = .next ((s.setEnv e).setSeq
        (if b = 0x8B#8 then .dly (.confirmed c 1#1) else if b = 0x0B#8 then .dly (.confirmed c 0#1) else .conf c))) ∧
    (∀ e, s.env = .timeout :: e → s.rxq = [] →
      step s = .next ((s.setEnv e).setSeq (.dly (.confirmed c 0#1)))) ∧
    (∀ e, s.env = .timeout :: e → s.rxq ≠ [] → step s = .next (s.setEnv e))

/-- R258, R203 (the spec's decision D23): the wait for a confirmation has no bound. However many other bytes the channel
delivers, the block still waits after all of them. -/
def Obligations.ConfirmationWaitUnbounded : Prop :=
  ∀ (c : Caller) (s : State) (other : List Byte), s.seq = .conf c → s.rxq = [] →
    s.env = other.map .deliver → (∀ b ∈ other, isConfirmation b = false) →
    runs other.length s = .next (s.setEnv [])

/-- R201 with R200, R203, R204, R208: a SEND_FRAME from issue to result. It writes the 2T tagged bytes, discards the bytes
before the confirmation, consumes it and answers 1 exactly for 0x8B; if the channel times out first it answers 0. The
buffers, the session and the status registers are as before. That the port is empty while it runs (log 9), and that
acceptance and delay are a step each, which fixes the number of steps (log 17), are the model's. -/
def Obligations.SendFrameEndToEnd : Prop :=
  ∀ (sel : Buf) (s : State) (other rest : List Byte) (b : Byte), s.seq = .idle →
    (∀ x ∈ other, isConfirmation x = false) →
    (Instr.sendFrame sel).op = 0x33 ∧
    ∃ t, exec (.sendFrame sel) s = .next t ∧ t = (s.setResult none).setSeq (.tx sel 0 .tag .host) ∧
      (s.env = [] → s.rxq = other ++ b :: rest → isConfirmation b = true →
        runs (2 * s.totalLength sel + other.length + 2) t = .next
          (((s.setTxlog (s.txlog ++ s.tagged sel)).setRxq rest).setResult
            (some (.flag (if b = 0x8B#8 then 1#1 else 0#1))))) ∧
      (s.env = List.replicate (2 * s.totalLength sel + other.length) .block ++ [.timeout, .block] → s.rxq = other →
        runs (2 * s.totalLength sel + other.length + 2) t = .next
          ((((s.setEnv []).setTxlog (s.txlog ++ s.tagged sel)).setRxq []).setResult (some (.flag 0#1))))

/-! ## The bus session (45_session_rx.md) -/

/-- R222, R223, R224: the own address set is the own address got, in its three fields. -/
def Obligations.OwnAddress : Prop :=
  ∀ (area line : BitVec 4) (member : Byte) (s : State), s.seq = .idle →
    (Instr.setOwnAddress area line member).op = 0x38 ∧ Instr.getOwnAddress.op = 0x39 ∧
    exec .getOwnAddress s = .next (s.setResult (some
      (.individual ((s.ownAddr >>> 12).setWidth 4) ((s.ownAddr >>> 8).setWidth 4) (s.ownAddr.setWidth 8)))) ∧
    ∃ t, exec (.setOwnAddress area line member) s = .next t ∧
      t = (s.setOwnAddr ((area.setWidth 16 <<< 12) ||| (line.setWidth 16 <<< 8) ||| member.setWidth 16)).setResult
        (some .empty) ∧
      exec .getOwnAddress t = .next (t.setResult (some (.individual area line member)))

/-- R225: a group is appended to the listen set and answered 1; a full set is left as it is and answered 0. The valid
entries keep their values and their order. -/
def Obligations.AddListenGroup : Prop :=
  ∀ (main : BitVec 5) (middle : BitVec 3) (sub : Byte) (s : State), s.seq = .idle →
    (Instr.addListenGroup main middle sub).op = 0x3A ∧
    (s.listenCount.toNat < 48 →
      ∃ t, exec (.addListenGroup main middle sub) s = .next t ∧
        t = ((s.setListen t.listen).setListenCount t.listenCount).setResult (some (.flag 1#1)) ∧
        t.listenCount.toNat = s.listenCount.toNat + 1 ∧
        ∀ k : Fin 48, t.listen[k] =
          if k.val = s.listenCount.toNat then
            (main.setWidth 16 <<< 11) ||| (middle.setWidth 16 <<< 8) ||| sub.setWidth 16
          else s.listen[k]) ∧
    (48 ≤ s.listenCount.toNat →
      exec (.addListenGroup main middle sub) s = .next (s.setResult (some (.flag 0#1))))

/-- R226, R227: IS_LISTENING_GROUP answers whether the group is a valid entry, GET_LISTEN_COUNT how many there are. -/
def Obligations.ListenSetQueries : Prop :=
  ∀ (main : BitVec 5) (middle : BitVec 3) (sub : Byte) (s : State), s.seq = .idle →
    (Instr.isListeningGroup main middle sub).op = 0x3B ∧ Instr.getListenCount.op = 0x3C ∧
    (s.listens ((main.setWidth 16 <<< 11) ||| (middle.setWidth 16 <<< 8) ||| sub.setWidth 16) →
      exec (.isListeningGroup main middle sub) s = .next (s.setResult (some (.flag 1#1)))) ∧
    (¬ s.listens ((main.setWidth 16 <<< 11) ||| (middle.setWidth 16 <<< 8) ||| sub.setWidth 16) →
      exec (.isListeningGroup main middle sub) s = .next (s.setResult (some (.flag 0#1)))) ∧
    exec .getListenCount s = .next (s.setResult (some (.code6 s.listenCount)))

/-- R228, R229, R239: the broadcast flag set and got, and the two status registers read. -/
def Obligations.BroadcastAndStatus : Prop :=
  ∀ (b : BitVec 1) (s : State), s.seq = .idle →
    (Instr.setListenBroadcast b).op = 0x3D ∧ Instr.getListenBroadcast.op = 0x3E ∧ Instr.getRxStatus.op = 0x37 ∧
    exec (.setListenBroadcast b) s = .next ((s.setListenBcast b).setResult (some .empty)) ∧
    exec .getListenBroadcast s = .next (s.setResult (some (.flag s.listenBcast))) ∧
    exec .getRxStatus s = .next (s.setResult (some (.rxStatus s.rxTimedOut s.confSentOk)))

/-- R230, R231: IS_OF_INTEREST answers the interest function of its buffer. -/
def Obligations.IsOfInterest : Prop :=
  ∀ (sel : Buf) (s : State), s.seq = .idle →
    (Instr.isOfInterest sel).op = 0x3F ∧
    (s.wants (s.byte sel 3) (s.byte sel 4) (s.byte sel 5) →
      exec (.isOfInterest sel) s = .next (s.setResult (some (.flag 1#1)))) ∧
    (¬ s.wants (s.byte sel 3) (s.byte sel 4) (s.byte sel 5) →
      exec (.isOfInterest sel) s = .next (s.setResult (some (.flag 0#1))))

/-- R242: the four interest laws, of the command, with `g` the 16 target bits. -/
def Obligations.InterestLaws : Prop :=
  ∀ (sel : Buf) (s : State) (g : BitVec 16), s.seq = .idle → g = s.byte sel 3 ++ s.byte sel 4 →
    (s.byte sel 5 &&& 0x80#8 ≠ 0x00#8 → s.listens g →
      exec (.isOfInterest sel) s = .next (s.setResult (some (.flag 1#1)))) ∧
    (s.byte sel 5 &&& 0x80#8 = 0x00#8 → g = s.ownAddr →
      exec (.isOfInterest sel) s = .next (s.setResult (some (.flag 1#1)))) ∧
    (s.byte sel 5 &&& 0x80#8 ≠ 0x00#8 → g = 0x0000#16 → s.listenBcast = 1#1 →
      exec (.isOfInterest sel) s = .next (s.setResult (some (.flag 1#1)))) ∧
    (s.byte sel 5 &&& 0x80#8 ≠ 0x00#8 → g = 0x0000#16 → s.listenBcast = 0#1 → ¬ s.listens 0x0000#16 →
      exec (.isOfInterest sel) s = .next (s.setResult (some (.flag 0#1)))) ∧
    (s.byte sel 5 &&& 0x80#8 = 0x00#8 → g ≠ s.ownAddr →
      exec (.isOfInterest sel) s = .next (s.setResult (some (.flag 0#1))))

/-- R232 up to the assembly, and the first three rows of R237: POLL_EVENT on an empty queue answers 0; a reset
indication is consumed and answered 1; any other byte that is no frame start is consumed and answered 4. No other state
changes. A frame start stays in the queue, IN is cleared, RX_TIMED_OUT is 0 and the first byte is read next. ChanAvailable,
ChanPeek and ChanRead are a step each, and a byte delivered between two of them joins the end of RXQ (R194). That the port
is empty while it runs is log 9, that IN is cleared in the step of the peek is log 17; both are the model's. -/
def Obligations.PollEventClassifies : Prop :=
  ∀ (s : State), s.seq = .idle → s.env = [] →
    Instr.pollEvent.op = 0x36 ∧
    ∃ t, exec .pollEvent s = .next t ∧ t = (s.setResult none).setSeq (.pCls .available) ∧
      (s.rxq = [] → step t = .next (s.setResult (some (.code3 0#3)))) ∧
      (s.rxq ≠ [] → step t = .next (t.setSeq (.pCls .peek))) ∧
      (∀ q, s.rxq = 0x03#8 :: q →
        runs 2 t = .next (t.setSeq (.pCls (.read 1#3))) ∧
        runs 3 t = .next ((s.setRxq q).setResult (some (.code3 1#3)))) ∧
      (∀ b q, s.rxq = b :: q → b ≠ 0x03#8 → b ||| 0x2C#8 ≠ 0xBC#8 →
        runs 2 t = .next (t.setSeq (.pCls (.read 4#3))) ∧
        runs 3 t = .next ((s.setRxq q).setResult (some (.code3 4#3)))) ∧
      (∀ b q, s.rxq = b :: q → b ||| 0x2C#8 = 0xBC#8 →
        ∃ u, runs 2 t = .next u ∧
          u = (((s.setMem u.mem).setRxTimedOut 0#1).setResult none).setSeq (.pRx 0) ∧
          ∀ a, u.mem.read a = if a = addr .incoming 0 then 0xBC#8 else if a = addr .incoming 5 then 0xE1#8
            else if addr .incoming 0 ≤ a ∧ a ≤ addr .incoming 22 then 0x00#8 else s.mem.read a) ∧
      (∀ k x e, step ((t.setSeq (.pCls k)).setEnv (.deliver x :: e)) =
        .next (((t.setSeq (.pCls k)).setEnv e).setRxq (s.rxq ++ [x])))

/-- R233, R234: a telegram `p` that stands whole in the queue is assembled in one read per byte into IN, the rest of IN
keeping its CLEAR bytes, RX_TIMED_OUT is 0, and the interest decision is taken from its target bytes. The bytes
after it stay in the queue; RPL, the session registers and TXLOG are unchanged. That the port is empty while it runs
(log 9), and that the two steps of the classification come first and the decision in the step of the last read (log 17),
are the model's. -/
def Obligations.PollEventAssembles : Prop :=
  ∀ (s : State) (p rest : List Byte), s.seq = .idle → s.env = [] → s.rxq = p ++ rest →
    p.length = wireLength p → p.getD 0 0x00#8 ||| 0x2C#8 = 0xBC#8 →
    ∃ t u i, exec .pollEvent s = .next t ∧ runs (2 + p.length) t = .next u ∧
      u = ((((s.setMem u.mem).setRxTimedOut 0#1).setResult none).setRxq rest).setSeq (.pAck i) ∧
      (i = 1#1 ↔ s.wants (p.getD 3 0x00#8) (p.getD 4 0x00#8) (p.getD 5 0x00#8)) ∧
      ∀ a, u.mem.read a = if addr .incoming 0 ≤ a ∧ a ≤ addr .incoming 22 then p.getD (a - addr .incoming 0) 0x00#8
        else s.mem.read a

/-- R233, R234: a telegram whose next byte does not come before the timeout. The assembly stops, RX_TIMED_OUT is 1, the
bytes not read keep their CLEAR values (the spec's decision D19), and the interest decision is taken from what stands in
IN. That the port is empty while it runs (log 9), and that the two steps of the classification come first and the decision
in the step of the timed-out read (log 17), are the model's. -/
def Obligations.PollEventTimesOut : Prop :=
  ∀ (s : State) (p : List Byte), s.seq = .idle → s.rxq = p →
    s.env = List.replicate (2 + p.length) .block ++ [.timeout] →
    p.length < wireLength p → p.getD 0 0x00#8 ||| 0x2C#8 = 0xBC#8 →
    ∃ t u i, exec .pollEvent s = .next t ∧ runs (3 + p.length) t = .next u ∧
      u = (((((s.setMem u.mem).setRxTimedOut 1#1).setResult none).setRxq []).setEnv []).setSeq (.pAck i) ∧
      (i = 1#1 ↔ s.wants (p.getD 3 0x00#8) (p.getD 4 0x00#8) (p.getD 5 0xE1#8)) ∧
      ∀ a, u.mem.read a = if addr .incoming 0 ≤ a ∧ a ≤ addr .incoming 22 then
          p.getD (a - addr .incoming 0) (if a = addr .incoming 5 then 0xE1#8 else 0x00#8)
        else s.mem.read a

/-- R235: the acknowledgement depends on the interest decision alone; it is written, the delay passes (each in one step, log
17), and the transport step follows. No checksum and no RX_TIMED_OUT is looked at. -/
def Obligations.PollEventAcknowledges : Prop :=
  ∀ (s : State) (i : BitVec 1), s.seq = .pAck i → s.env = [] →
    runs 2 s = .next ((s.setTxlog (s.txlog ++ [if i = 1#1 then 0x11#8 else 0x10#8])).setSeq (.pNcd i))

/-- R236: the transport step. For a numbered telegram of interest the eight bytes of the confirmation are built in a
cleared RPL and its transmission starts, to return to POLL_EVENT; otherwise CONF_SENT_OK is 0 and POLL_EVENT ends with
its event. When the transmission's delay ends, CONF_SENT_OK is its result. (The reply buffer and CLEAR's priority and
routing counter are the spec's decisions D20 and D32.) That the whole confirmation is built in the one step of P_NCD, and
that CONF_SENT_OK and the event come in the step that ends the delay, is the model's reading (log 17). -/
def Obligations.PollEventConfirms : Prop :=
  ∀ (s : State) (i ok : BitVec 1), s.env = [] →
    (s.seq = .pNcd i → i = 1#1 → (s.byte .incoming 6 &&& 0x40#8 ≠ 0x00#8) →
      ∃ u, step s = .next u ∧ u = (s.setMem u.mem).setSeq (.tx .reply 0 .tag .pollEvent) ∧
        u.byte .reply 0 = 0xBC#8 ∧ u.byte .reply 1 = (s.ownAddr >>> 8).setWidth 8 ∧
        u.byte .reply 2 = s.ownAddr.setWidth 8 ∧ u.byte .reply 3 = s.byte .incoming 1 ∧
        u.byte .reply 4 = s.byte .incoming 2 ∧ u.byte .reply 5 = 0x60#8 ∧
        u.byte .reply 6 = 0xC2#8 ||| (s.byte .incoming 6 &&& 0x3C#8) ∧
        u.byte .reply 7 = 0xFF#8 ^^^ u.byte .reply 0 ^^^ u.byte .reply 1 ^^^ u.byte .reply 2 ^^^ u.byte .reply 3 ^^^
          u.byte .reply 4 ^^^ u.byte .reply 5 ^^^ u.byte .reply 6 ∧
        (∀ k, 8 ≤ k → k ≤ 22 → u.byte .reply k = 0x00#8) ∧
        ∀ a, ¬ (addr .reply 0 ≤ a ∧ a ≤ addr .reply 22) → u.mem.read a = s.mem.read a) ∧
    (s.seq = .pNcd i → (i = 0#1 ∨ s.byte .incoming 6 &&& 0x40#8 = 0x00#8) →
      step s = .next (((s.setConfSentOk 0#1).setResult (some (.code3 (if i = 1#1 then 2#3 else 3#3)))).setSeq .idle)) ∧
    (s.seq = .dly (.confirmed .pollEvent ok) →
      step s = .next (((s.setConfSentOk ok).setResult (some (.code3 2#3))).setSeq .idle))

/-- R232, R237: a whole POLL_EVENT on a telegram that needs no confirmation (not of interest, or unnumbered), from issue
to result: event 2 or 3, one byte written, CONF_SENT_OK and RX_TIMED_OUT 0, the telegram in IN, RPL unchanged. How many
steps acceptance, classification, delay and transport step take is the model's reading (log 17). -/
def Obligations.PollEventUnconfirmed : Prop :=
  ∀ (s : State) (p rest : List Byte) (w : BitVec 1), s.seq = .idle → s.env = [] → s.rxq = p ++ rest →
    p.length = wireLength p → p.getD 0 0x00#8 ||| 0x2C#8 = 0xBC#8 →
    (w = 1#1 ↔ s.wants (p.getD 3 0x00#8) (p.getD 4 0x00#8) (p.getD 5 0x00#8)) →
    (w = 0#1 ∨ p.getD 6 0x00#8 &&& 0x40#8 = 0x00#8) →
    ∃ t u, exec .pollEvent s = .next t ∧ runs (p.length + 5) t = .next u ∧
      u = (((((s.setMem u.mem).setRxTimedOut 0#1).setConfSentOk 0#1).setRxq rest).setTxlog
        (s.txlog ++ [if w = 1#1 then 0x11#8 else 0x10#8])).setResult
        (some (.code3 (if w = 1#1 then 2#3 else 3#3))) ∧
      ∀ a, u.mem.read a = if addr .incoming 0 ≤ a ∧ a ≤ addr .incoming 22 then p.getD (a - addr .incoming 0) 0x00#8
        else s.mem.read a

/-- R232, R236, R237: a whole POLL_EVENT on a numbered telegram of interest whose confirmation is confirmed by `b`: the
acknowledgement and the sixteen tagged bytes of the confirmation are written in that order, RPL holds it, CONF_SENT_OK
is 1 exactly for 0x8B, and the event is 2 either way. How many steps acceptance, classification, delays and transport
step take is the model's reading (log 17). -/
def Obligations.PollEventConfirmed : Prop :=
  ∀ (s : State) (p rest : List Byte) (b c6 cs : Byte), s.seq = .idle → s.env = [] → s.rxq = p ++ b :: rest →
    p.length = wireLength p → p.getD 0 0x00#8 ||| 0x2C#8 = 0xBC#8 →
    s.wants (p.getD 3 0x00#8) (p.getD 4 0x00#8) (p.getD 5 0x00#8) →
    p.getD 6 0x00#8 &&& 0x40#8 ≠ 0x00#8 → isConfirmation b = true →
    c6 = 0xC2#8 ||| (p.getD 6 0x00#8 &&& 0x3C#8) →
    cs = 0xFF#8 ^^^ 0xBC#8 ^^^ (s.ownAddr >>> 8).setWidth 8 ^^^ s.ownAddr.setWidth 8 ^^^ p.getD 1 0x00#8 ^^^
      p.getD 2 0x00#8 ^^^ 0x60#8 ^^^ c6 →
    ∃ t u, exec .pollEvent s = .next t ∧ runs (p.length + 23) t = .next u ∧
      u = (((((s.setMem u.mem).setRxTimedOut 0#1).setConfSentOk (if b = 0x8B#8 then 1#1 else 0#1)).setRxq rest).setTxlog
        (s.txlog ++ 0x11#8 :: [0x80#8, 0xBC#8, 0x81#8, (s.ownAddr >>> 8).setWidth 8, 0x82#8, s.ownAddr.setWidth 8,
          0x83#8, p.getD 1 0x00#8, 0x84#8, p.getD 2 0x00#8, 0x85#8, 0x60#8, 0x86#8, c6, 0x47#8, cs])).setResult
        (some (.code3 2#3)) ∧
      (∀ k, k ≤ 22 → u.byte .incoming k = p.getD k 0x00#8) ∧
      (∀ k, k ≤ 22 → u.byte .reply k = [0xBC#8, (s.ownAddr >>> 8).setWidth 8, s.ownAddr.setWidth 8, p.getD 1 0x00#8,
        p.getD 2 0x00#8, 0x60#8, c6, cs].getD k 0x00#8)

/-- R237's last sentence with R25, R26, R27: the session registers change only in a step that runs SET_OWN_ADDRESS,
ADD_LISTEN_GROUP or SET_LISTEN_BROADCAST; no step of POLL_EVENT writes them. -/
def Obligations.SessionWrittenByItsCommands : Prop :=
  ∀ (s t : State), step s = .next t → ¬ SameSession s t →
    ∃ (w : Issued) (r : List Turn) (i : Instr), s.env = .issue w :: r ∧ decode w.space w.bytes = .ok i ∧
      ((∃ a l m, i = .setOwnAddress a l m) ∨ (∃ m n l, i = .addListenGroup m n l) ∨
        (∃ b, i = .setListenBroadcast b))

/-- R28, R29: the status registers change only while POLL_EVENT runs: RX_TIMED_OUT at its classification (in the step that
peeks, log 17) and its reads, CONF_SENT_OK at its transport step and at the end of the confirmation it sends. -/
def Obligations.StatusWrittenByPollEvent : Prop :=
  ∀ (s t : State), step s = .next t →
    (t.rxTimedOut ≠ s.rxTimedOut → s.seq = .pCls .peek ∨ ∃ i, s.seq = .pRx i) ∧
    (t.confSentOk ≠ s.confSentOk → (∃ i, s.seq = .pNcd i) ∨ ∃ ok, s.seq = .dly (.confirmed .pollEvent ok))

/-! ## The wire bytes and the application commands as rows of the table (30_encoding.md) -/

/-- R87 (the model's reading, log 11): a received control byte is the channel's delivery of it, in every state. With no
read waiting on an empty queue it joins the end of RXQ and nothing else changes; a read takes it; a confirmation that finds
the block waiting for one ends the wait (R203), and the other two are discarded there. -/
def Obligations.ReceivedControlBytes : Prop :=
  ∀ (r : BitVec 1) (p : BitVec 2) (c : Caller) (s : State) (b : Byte),
    b = 0x90#8 ||| (if r = 1#1 then 0x20#8 else 0x00#8) ||| (p.setWidth 8 <<< 2) →
    (s.rxq ≠ [] ∨ s.seq.reads = false →
      exec (.rxFrameStart r p) s = .next (s.setRxq (s.rxq ++ [b])) ∧
      exec .rxResetIndication s = .next (s.setRxq (s.rxq ++ [0x03#8])) ∧
      exec .rxPositiveConfirmation s = .next (s.setRxq (s.rxq ++ [0x8B#8])) ∧
      exec .rxNegativeConfirmation s = .next (s.setRxq (s.rxq ++ [0x0B#8]))) ∧
    (s.rxq = [] → s.seq = .conf c →
      exec .rxPositiveConfirmation s = .next (s.setSeq (.dly (.confirmed c 1#1))) ∧
      exec .rxNegativeConfirmation s = .next (s.setSeq (.dly (.confirmed c 0#1))) ∧
      exec (.rxFrameStart r p) s = .next s ∧ exec .rxResetIndication s = .next s) ∧
    (s.rxq = [] → s.seq = .rd →
      exec (.rxFrameStart r p) s = .next ((s.setResult (some (.readByte 1#1 b))).setSeq .idle) ∧
      exec .rxResetIndication s = .next ((s.setResult (some (.readByte 1#1 0x03#8))).setSeq .idle) ∧
      exec .rxPositiveConfirmation s = .next ((s.setResult (some (.readByte 1#1 0x8B#8))).setSeq .idle) ∧
      exec .rxNegativeConfirmation s = .next ((s.setResult (some (.readByte 1#1 0x0B#8))).setSeq .idle)) ∧
    (s.env = [] →
      exec (.rxFrameStart r p) s = step (s.setEnv [.deliver b]) ∧
      exec .rxResetIndication s = step (s.setEnv [.deliver 0x03#8]) ∧
      exec .rxPositiveConfirmation s = step (s.setEnv [.deliver 0x8B#8]) ∧
      exec .rxNegativeConfirmation s = step (s.setEnv [.deliver 0x0B#8]))

/-- R88 (the model's reading, log 12): a sent byte is one byte more on TXLOG and nothing else changes. -/
def Obligations.SentControlBytes : Prop :=
  ∀ (i : BitVec 6) (s : State),
    exec (.txTagContinue i) s = .next (s.setTxlog (s.txlog ++ [0x80#8 ||| i.setWidth 8])) ∧
    exec (.txTagEnd i) s = .next (s.setTxlog (s.txlog ++ [0x40#8 ||| i.setWidth 8])) ∧
    exec .txAck s = .next (s.setTxlog (s.txlog ++ [0x11#8])) ∧
    exec .txNotAddressed s = .next (s.setTxlog (s.txlog ++ [0x10#8]))

/-- The block's own step at a position that writes a table byte is that row's meaning, then the move of SEQ: the tags of
SEND_FRAME (R202), the byte of SEND_ACK and SEND_NOT_ADDRESSED (R206, R207) and POLL_EVENT's acknowledgement (R235). That
a row of R88 means its byte written to the channel is the model's reading (log 12). -/
def Obligations.SequencerWritesTableBytes : Prop :=
  ∀ (s t : State) (sel : Buf) (n : BitVec 6) (c : Caller) (w : BitVec 1), s.env = [] →
    (s.seq = .tx sel n.toNat .tag c → n.toNat + 1 < s.totalLength sel → exec (.txTagContinue n) s = .next t →
      step s = .next (t.setSeq (.tx sel n.toNat .data c))) ∧
    (s.seq = .tx sel n.toNat .tag c → n.toNat + 1 = s.totalLength sel → exec (.txTagEnd n) s = .next t →
      step s = .next (t.setSeq (.tx sel n.toNat .data c))) ∧
    (s.seq = .pAck w → exec (if w = 1#1 then .txAck else .txNotAddressed) s = .next t →
      step s = .next (t.setSeq (.dly (.pollAcknowledged w)))) ∧
    (s.seq = .ackTx 0x11#8 → exec .txAck s = .next t → step s = .next (t.setSeq (.dly .acknowledged))) ∧
    (s.seq = .ackTx 0x10#8 → exec .txNotAddressed s = .next t → step s = .next (t.setSeq (.dly .acknowledged)))

/-- R84 with R82 (the model's reading, log 13): an application command of the table puts its code on the result port;
the six data bits of a 4-bit command never change it. -/
def Obligations.ApplicationCommandsNamed : Prop :=
  ∀ (d : BitVec 6) (s : State), s.seq = .idle →
    exec (.apciGroupRead d) s = .next (s.setResult (some (.code5 1#5))) ∧
    exec (.apciGroupResponse d) s = .next (s.setResult (some (.code5 2#5))) ∧
    exec (.apciGroupWrite d) s = .next (s.setResult (some (.code5 3#5))) ∧
    exec (.apciIndividualAddrWrite d) s = .next (s.setResult (some (.code5 4#5))) ∧
    exec (.apciIndividualAddrRead d) s = .next (s.setResult (some (.code5 5#5))) ∧
    exec (.apciIndividualAddrResponse d) s = .next (s.setResult (some (.code5 6#5))) ∧
    exec (.apciMemoryRead d) s = .next (s.setResult (some (.code5 7#5))) ∧
    exec (.apciMemoryResponse d) s = .next (s.setResult (some (.code5 8#5))) ∧
    exec (.apciMemoryWrite d) s = .next (s.setResult (some (.code5 9#5))) ∧
    exec (.apciDeviceDescriptorRead d) s = .next (s.setResult (some (.code5 10#5))) ∧
    exec (.apciDeviceDescriptorResponse d) s = .next (s.setResult (some (.code5 11#5))) ∧
    exec (.apciRestart d) s = .next (s.setResult (some (.code5 12#5))) ∧
    exec .apciAuthorizeRequest s = .next (s.setResult (some (.code5 13#5))) ∧
    exec .apciAuthorizeResponse s = .next (s.setResult (some (.code5 14#5))) ∧
    exec .apciPropertyRead s = .next (s.setResult (some (.code5 15#5))) ∧
    exec .apciPropertyResponse s = .next (s.setResult (some (.code5 16#5))) ∧
    exec .apciPropertyWrite s = .next (s.setResult (some (.code5 17#5)))

/-- DECODE_APP_COMMAND of a data telegram of payload length 2 or more does what the row of its ten APCI bits does, and
answers UNKNOWN where no row has them (R81, R85, R126). What a row does is the model's reading (log 13), and the byte order
of its word the model's choice (log 10). -/
def Obligations.DecodeAppCommandIsTheRow : Prop :=
  ∀ (sel : Buf) (s : State) (w : Nat), s.seq = .idle → s.byte sel 6 &&& 0x80#8 = 0x00#8 →
    s.byte sel 5 &&& 0x0F#8 ≠ 0x00#8 →
    w = (s.byte sel 6).toNat % 4 * 256 + (s.byte sel 7).toNat →
    (∀ i, decode .apci (leBytes 2 w) = .ok i → exec (.decodeAppCommand sel) s = exec i s) ∧
    (∀ e, decode .apci (leBytes 2 w) = .error e →
      exec (.decodeAppCommand sel) s = .next (s.setResult (some (.code5 0#5))))

/-! ## The whole machine -/

/-- R270 with R23, R25 to R29, R33 and R36, the values the spec gives (its decision D25): after reset every byte of both
buffers is the CLEAR telegram's, LISTEN_COUNT, LISTEN_BCAST, RX_TIMED_OUT and CONF_SENT_OK are 0, OWN_ADDR is
INITIAL_OWN_ADDR (whose form as a constant is the model's choice, log 3), SEQ is IDLE and TXLOG is empty. -/
def Obligations.ResetState : Prop :=
  (∀ (b : Buf) (k : Nat), k ≤ 22 →
    State.reset.byte b k = if k = 0 then 0xBC#8 else if k = 5 then 0xE1#8 else 0x00#8) ∧
  State.reset.ownAddr = Config.initialOwnAddr ∧ State.reset.listenCount = 0#6 ∧ State.reset.listenBcast = 0#1 ∧
  State.reset.rxTimedOut = 0#1 ∧ State.reset.confSentOk = 0#1 ∧ State.reset.seq = .idle ∧ State.reset.txlog = []

/-- When the next turn issues a word that decodes to `i`, the step is `exec i` on the state from which that turn is
taken. A word of no row runs too: a byte of the receive direction is delivered whatever its value (R256), a byte of the
transmit direction is one more on TXLOG (R199), an application code outside the table is named UNKNOWN at IDLE (R85);
every command word is a command (R92). (The block has no program counter; the word comes over the command port: 10_state.md
R32, log 8; what a word of another space does when issued is the model's reading, log 11, 12, 13.) -/
def Obligations.StepRunsDecodedWord : Prop :=
  ∀ (s : State) (w : Issued) (r : List Turn), s.env = .issue w :: r →
    (∀ i, decode w.space w.bytes = .ok i → step s = exec i (s.setEnv r)) ∧
    (∀ e, decode w.space w.bytes = .error e →
      (∃ b, w = .receive b ∧ step s = step (s.setEnv (.deliver b :: r))) ∨
      (∃ b, w = .transmit b ∧ step s = .next ((s.setEnv r).setTxlog (s.txlog ++ [b]))) ∨
      (∃ a, w = .apci a ∧
        (s.seq = .idle → step s = .next ((s.setEnv r).setResult (some (.code5 0#5))))))

/-- Words written out from the encodings of R84, R87, R88 and R91 decode to their instructions. (Where the operands stand
in a command word is the model's choice, log 10.) -/
def Obligations.WordsDecode : Prop :=
  decode .command [0x01#8, 0x01#8, 0x05#8, 0#8, 0#8, 0#8, 0#8, 0#8, 0#8, 0#8, 0#8, 0#8, 0#8, 0#8, 0#8, 0#8] =
    .ok (.getByte .reply 5#5) ∧
  decode .command [0x36#8, 0#8, 0#8, 0#8, 0#8, 0#8, 0#8, 0#8, 0#8, 0#8, 0#8, 0#8, 0#8, 0#8, 0#8, 0#8] =
    .ok .pollEvent ∧
  decode .receive [0b10110100#8] = .ok (.rxFrameStart 1#1 0b01#2) ∧
  decode .receive [0b00000011#8] = .ok .rxResetIndication ∧
  decode .transmit [0b10000101#8] = .ok (.txTagContinue 5#6) ∧
  decode .transmit [0b00010001#8] = .ok .txAck ∧
  decode .apci [0b10000001#8, 0b00#8] = .ok (.apciGroupWrite 1#6) ∧
  decode .apci [0b11010001#8, 0b11#8] = .ok .apciAuthorizeRequest

/-- Decoding the encoding of a well-formed instruction gives it back: no operand bit of any row is dropped. -/
def Obligations.DecodeEncode : Prop :=
  ∀ i : Instr, i.wellFormed = true → decode i.space (encode i) = .ok i

/-- R252, R255 with R34, R253, R254: a command issued while SEQ is not IDLE is refused as Busy, before any operand is looked
at (the spec's decision D26), and a command is refused for no reason but the three of the table, each with its code. (That
a refusal is an outcome without a next state is log 18.) -/
def Obligations.BusyRefusesCommands : Prop :=
  ∀ (i : Instr) (s : State), i.space = .command →
    (s.seq ≠ .idle → exec i s = .refused .busy) ∧
    ∀ r, exec i s = .refused r →
      (r.code = some 0 ∧ s.seq ≠ .idle) ∨
      (r.code = some 1 ∧ s.seq = .idle ∧
        ∃ sel idx, 23 ≤ idx.toNat ∧ (i = .getByte sel idx ∨ ∃ v, i = .setByte sel idx v)) ∨
      (r.code = some 2 ∧ s.seq = .idle ∧
        ∃ sel n, (n.toNat = 0 ∨ 17 ≤ n.toNat) ∧ i = .setPayloadLength sel n)

/-- R256, R257: no step of the machine faults, unless a word is issued the step answers a next state, and at every value of
SEQ but IDLE the block's own step moves: the next state differs. -/
def Obligations.NoFaultNoStuckState : Prop :=
  ∀ (s : State), (∀ f, step s ≠ .fault f) ∧
    ((∀ w r, s.env ≠ .issue w :: r) → ∃ t, step s = .next t) ∧
    (s.seq ≠ .idle → s.env = [] → ∃ t, step s = .next t ∧ t ≠ s)

/-- R32: a command that does not touch the channel goes from IDLE to IDLE in one step, its result on the port, and
leaves RXQ, TXLOG and the two status registers. -/
def Obligations.OtherCommandsAreOneStep : Prop :=
  ∀ (i : Instr) (s t : State), i.space = .command → i.usesChannel = false → exec i s = .next t →
    s.seq = .idle ∧ t.seq = .idle ∧ t.result ≠ none ∧ t.rxq = s.rxq ∧ t.txlog = s.txlog ∧ t.env = s.env ∧
    t.rxTimedOut = s.rxTimedOut ∧ t.confSentOk = s.confSentOk

/-- R22: a codec, checksum or datapoint command touches no byte of the buffer it does not name, and no session
register. -/
def Obligations.OtherBufferUntouched : Prop :=
  ∀ (i : Instr) (s t : State) (b c : Buf), i.buffer = some b → c ≠ b → exec i s = .next t →
    (∀ k, k ≤ 22 → t.byte c k = s.byte c k) ∧ SameSession s t

/-- The invariant of Safety.lean is kept by every step, from every state that has it. Of its clauses, the empty port while a
command runs is the model's choice (log 9), the canonical memory its form of the buffer space (log 1), and the places
inside P_CLS its reading (log 17). -/
def Obligations.InvariantKept : Prop :=
  ∀ (s t : State), s.Inv → step s = .next t → t.Inv

/-- The state after reset has the invariant of Safety.lean, whose clauses on the port and the memory are the model's (log 9,
log 1). -/
def Obligations.ResetInvariant : Prop := State.reset.Inv
end

