-- ==== Sys2Proof/Laws/Bits.lean ====
section
/-! SUPPORT. What the bit-field operations do, bit by bit and field by field. -/

namespace Sys2Proof.Machine

theorem getLsbD_fieldMask (lo n j : Nat) :
    (fieldMask lo n).getLsbD j = (decide (j < 8) && decide (lo ≤ j) && decide (j < lo + n)) := by
  simp only [fieldMask, BitVec.getLsbD_shiftLeft, BitVec.getLsbD_setWidth, BitVec.getLsbD_allOnes]
  by_cases h1 : j < 8 <;> by_cases h2 : lo ≤ j <;> by_cases h3 : j < lo + n <;> simp [h1, h2, h3] <;> omega

theorem getLsbD_putBits {n : Nat} (x : Byte) (lo : Nat) (v : BitVec n) (j : Nat) :
    (putBits x lo v).getLsbD j =
      if j < 8 ∧ lo ≤ j ∧ j < lo + n then v.getLsbD (j - lo) else x.getLsbD j := by
  simp only [putBits, BitVec.getLsbD_or, BitVec.getLsbD_and, BitVec.getLsbD_not, getLsbD_fieldMask,
    BitVec.getLsbD_shiftLeft, BitVec.getLsbD_setWidth]
  by_cases h1 : j < 8
  · by_cases h2 : lo ≤ j
    · by_cases h3 : j < lo + n
      · have : j - lo < 8 := by omega
        simp [h1, h2, h3, this]
      · simp [h1, h2, h3]
    · simp [h1, h2]
  · have : x.getLsbD j = false := BitVec.getLsbD_of_ge x j (by omega)
    simp [h1, this]

theorem getLsbD_getBits (x : Byte) (lo n j : Nat) :
    (getBits x lo n).getLsbD j = (decide (j < n) && x.getLsbD (lo + j)) := by
  simp [getBits]

/-- A field written reads back. -/
theorem getBits_putBits_same {n : Nat} (x : Byte) (lo : Nat) (v : BitVec n) (h : lo + n ≤ 8) :
    getBits (putBits x lo v) lo n = v := by
  apply BitVec.eq_of_getLsbD_eq
  intro j hj
  rw [getLsbD_getBits, getLsbD_putBits]
  have h1 : lo + j < 8 := by omega
  have h2 : lo + j < lo + n := by omega
  simp [hj, h1]

/-- A field written leaves every field that shares no bit with it. -/
theorem getBits_putBits_other {n : Nat} (x : Byte) (lo lo' n' : Nat) (v : BitVec n)
    (h : lo' + n' ≤ lo ∨ lo + n ≤ lo') : getBits (putBits x lo v) lo' n' = getBits x lo' n' := by
  apply BitVec.eq_of_getLsbD_eq
  intro j hj
  simp only [getLsbD_getBits, getLsbD_putBits]
  have : ¬ (lo' + j < 8 ∧ lo ≤ lo' + j ∧ lo' + j < lo + n) := by omega
  simp [this]

/-- Two writes of one field are the second. -/
theorem putBits_putBits {n : Nat} (x : Byte) (lo : Nat) (u v : BitVec n) :
    putBits (putBits x lo u) lo v = putBits x lo v := by
  apply BitVec.eq_of_getLsbD_eq
  intro j hj
  simp only [getLsbD_putBits]
  split <;> rfl

/-- A byte is the concatenation of a field from 0 and the field above it. -/
theorem getBits_append (x : Byte) (n : Nat) (h : n ≤ 8) :
    (getBits x n (8 - n) ++ getBits x 0 n).setWidth 8 = x := by
  apply BitVec.eq_of_getLsbD_eq
  intro j hj
  simp only [BitVec.getLsbD_setWidth, BitVec.getLsbD_append, getLsbD_getBits]
  by_cases hn : j < n
  · simp [hn, hj]
  · have h1 : j - n < 8 - n := by omega
    have h2 : n + (j - n) = j := by omega
    simp [hn, hj, h1, h2]

/-! A field write as a mask and an OR, in the numbers of the spec. -/

theorem putBits_mask {n : Nat} (x : Byte) (lo : Nat) (v : BitVec n) (h : lo + n ≤ 8) :
    putBits x lo v = (x &&& ~~~fieldMask lo n) ||| (v.setWidth 8 <<< lo) := by
  apply BitVec.eq_of_getLsbD_eq
  intro j hj
  rw [getLsbD_putBits]
  simp only [BitVec.getLsbD_or, BitVec.getLsbD_and, BitVec.getLsbD_not, getLsbD_fieldMask,
    BitVec.getLsbD_shiftLeft, BitVec.getLsbD_setWidth]
  by_cases h2 : lo ≤ j
  · by_cases h3 : j < lo + n
    · have : j - lo < 8 := by omega
      simp [hj, h2, h3, this]
    · have : v.getLsbD (j - lo) = false := BitVec.getLsbD_of_ge v _ (by omega)
      simp [hj, h2, h3, this]
  · simp [hj, h2]

/-- A field as a shift and a truncation. -/
theorem getBits_eq_shift (x : Byte) (lo n : Nat) : getBits x lo n = (x >>> lo).setWidth n := by
  apply BitVec.eq_of_getLsbD_eq
  intro j hj
  rw [getLsbD_getBits]
  simp [hj]

/-- The low four bits as a number. -/
theorem toNat_low4 (x : Byte) : (getBits x 0 4).toNat = (x &&& 0x0F#8).toNat := by
  revert x; decide

/-- The bits outside the field. -/
theorem putBits_and {n : Nat} (x : Byte) (lo : Nat) (v : BitVec n) (m : Byte) (hm : m = fieldMask lo n) :
    putBits x lo v &&& ~~~m = x &&& ~~~m := by
  subst hm
  apply BitVec.eq_of_getLsbD_eq
  intro j hj
  simp only [BitVec.getLsbD_and, BitVec.getLsbD_not, getLsbD_putBits, getLsbD_fieldMask]
  split
  · rename_i h; simp [h]
  · rfl

end Sys2Proof.Machine
end

