-- ==== Sys2Proof/Laws/State.lean ====
section
/-! SUPPORT. One lemma for every field and every setter of State, so that no proof unfolds a record update. -/

namespace Sys2Proof.Machine

/-! ## setMem -/

@[simp] theorem State.setMem_mem (s : State) (v : Memory) : (s.setMem v).mem = v := rfl
@[simp] theorem State.setMem_ownAddr (s : State) (v : Memory) : (s.setMem v).ownAddr = s.ownAddr := rfl
@[simp] theorem State.setMem_listen (s : State) (v : Memory) : (s.setMem v).listen = s.listen := rfl
@[simp] theorem State.setMem_listenCount (s : State) (v : Memory) : (s.setMem v).listenCount = s.listenCount := rfl
@[simp] theorem State.setMem_listenBcast (s : State) (v : Memory) : (s.setMem v).listenBcast = s.listenBcast := rfl
@[simp] theorem State.setMem_rxTimedOut (s : State) (v : Memory) : (s.setMem v).rxTimedOut = s.rxTimedOut := rfl
@[simp] theorem State.setMem_confSentOk (s : State) (v : Memory) : (s.setMem v).confSentOk = s.confSentOk := rfl
@[simp] theorem State.setMem_seq (s : State) (v : Memory) : (s.setMem v).seq = s.seq := rfl
@[simp] theorem State.setMem_result (s : State) (v : Memory) : (s.setMem v).result = s.result := rfl
@[simp] theorem State.setMem_rxq (s : State) (v : Memory) : (s.setMem v).rxq = s.rxq := rfl
@[simp] theorem State.setMem_txlog (s : State) (v : Memory) : (s.setMem v).txlog = s.txlog := rfl
@[simp] theorem State.setMem_env (s : State) (v : Memory) : (s.setMem v).env = s.env := rfl
@[simp] theorem State.setMem_choices (s : State) (v : Memory) : (s.setMem v).choices = s.choices := rfl

/-! ## setOwnAddr -/

@[simp] theorem State.setOwnAddr_mem (s : State) (v : BitVec 16) : (s.setOwnAddr v).mem = s.mem := rfl
@[simp] theorem State.setOwnAddr_ownAddr (s : State) (v : BitVec 16) : (s.setOwnAddr v).ownAddr = v := rfl
@[simp] theorem State.setOwnAddr_listen (s : State) (v : BitVec 16) : (s.setOwnAddr v).listen = s.listen := rfl
@[simp] theorem State.setOwnAddr_listenCount (s : State) (v : BitVec 16) : (s.setOwnAddr v).listenCount = s.listenCount := rfl
@[simp] theorem State.setOwnAddr_listenBcast (s : State) (v : BitVec 16) : (s.setOwnAddr v).listenBcast = s.listenBcast := rfl
@[simp] theorem State.setOwnAddr_rxTimedOut (s : State) (v : BitVec 16) : (s.setOwnAddr v).rxTimedOut = s.rxTimedOut := rfl
@[simp] theorem State.setOwnAddr_confSentOk (s : State) (v : BitVec 16) : (s.setOwnAddr v).confSentOk = s.confSentOk := rfl
@[simp] theorem State.setOwnAddr_seq (s : State) (v : BitVec 16) : (s.setOwnAddr v).seq = s.seq := rfl
@[simp] theorem State.setOwnAddr_result (s : State) (v : BitVec 16) : (s.setOwnAddr v).result = s.result := rfl
@[simp] theorem State.setOwnAddr_rxq (s : State) (v : BitVec 16) : (s.setOwnAddr v).rxq = s.rxq := rfl
@[simp] theorem State.setOwnAddr_txlog (s : State) (v : BitVec 16) : (s.setOwnAddr v).txlog = s.txlog := rfl
@[simp] theorem State.setOwnAddr_env (s : State) (v : BitVec 16) : (s.setOwnAddr v).env = s.env := rfl
@[simp] theorem State.setOwnAddr_choices (s : State) (v : BitVec 16) : (s.setOwnAddr v).choices = s.choices := rfl

/-! ## setListen -/

@[simp] theorem State.setListen_mem (s : State) (v : Vector (BitVec 16) 48) : (s.setListen v).mem = s.mem := rfl
@[simp] theorem State.setListen_ownAddr (s : State) (v : Vector (BitVec 16) 48) : (s.setListen v).ownAddr = s.ownAddr := rfl
@[simp] theorem State.setListen_listen (s : State) (v : Vector (BitVec 16) 48) : (s.setListen v).listen = v := rfl
@[simp] theorem State.setListen_listenCount (s : State) (v : Vector (BitVec 16) 48) : (s.setListen v).listenCount = s.listenCount := rfl
@[simp] theorem State.setListen_listenBcast (s : State) (v : Vector (BitVec 16) 48) : (s.setListen v).listenBcast = s.listenBcast := rfl
@[simp] theorem State.setListen_rxTimedOut (s : State) (v : Vector (BitVec 16) 48) : (s.setListen v).rxTimedOut = s.rxTimedOut := rfl
@[simp] theorem State.setListen_confSentOk (s : State) (v : Vector (BitVec 16) 48) : (s.setListen v).confSentOk = s.confSentOk := rfl
@[simp] theorem State.setListen_seq (s : State) (v : Vector (BitVec 16) 48) : (s.setListen v).seq = s.seq := rfl
@[simp] theorem State.setListen_result (s : State) (v : Vector (BitVec 16) 48) : (s.setListen v).result = s.result := rfl
@[simp] theorem State.setListen_rxq (s : State) (v : Vector (BitVec 16) 48) : (s.setListen v).rxq = s.rxq := rfl
@[simp] theorem State.setListen_txlog (s : State) (v : Vector (BitVec 16) 48) : (s.setListen v).txlog = s.txlog := rfl
@[simp] theorem State.setListen_env (s : State) (v : Vector (BitVec 16) 48) : (s.setListen v).env = s.env := rfl
@[simp] theorem State.setListen_choices (s : State) (v : Vector (BitVec 16) 48) : (s.setListen v).choices = s.choices := rfl

/-! ## setListenCount -/

@[simp] theorem State.setListenCount_mem (s : State) (v : BitVec 6) : (s.setListenCount v).mem = s.mem := rfl
@[simp] theorem State.setListenCount_ownAddr (s : State) (v : BitVec 6) : (s.setListenCount v).ownAddr = s.ownAddr := rfl
@[simp] theorem State.setListenCount_listen (s : State) (v : BitVec 6) : (s.setListenCount v).listen = s.listen := rfl
@[simp] theorem State.setListenCount_listenCount (s : State) (v : BitVec 6) : (s.setListenCount v).listenCount = v := rfl
@[simp] theorem State.setListenCount_listenBcast (s : State) (v : BitVec 6) : (s.setListenCount v).listenBcast = s.listenBcast := rfl
@[simp] theorem State.setListenCount_rxTimedOut (s : State) (v : BitVec 6) : (s.setListenCount v).rxTimedOut = s.rxTimedOut := rfl
@[simp] theorem State.setListenCount_confSentOk (s : State) (v : BitVec 6) : (s.setListenCount v).confSentOk = s.confSentOk := rfl
@[simp] theorem State.setListenCount_seq (s : State) (v : BitVec 6) : (s.setListenCount v).seq = s.seq := rfl
@[simp] theorem State.setListenCount_result (s : State) (v : BitVec 6) : (s.setListenCount v).result = s.result := rfl
@[simp] theorem State.setListenCount_rxq (s : State) (v : BitVec 6) : (s.setListenCount v).rxq = s.rxq := rfl
@[simp] theorem State.setListenCount_txlog (s : State) (v : BitVec 6) : (s.setListenCount v).txlog = s.txlog := rfl
@[simp] theorem State.setListenCount_env (s : State) (v : BitVec 6) : (s.setListenCount v).env = s.env := rfl
@[simp] theorem State.setListenCount_choices (s : State) (v : BitVec 6) : (s.setListenCount v).choices = s.choices := rfl

/-! ## setListenBcast -/

@[simp] theorem State.setListenBcast_mem (s : State) (v : BitVec 1) : (s.setListenBcast v).mem = s.mem := rfl
@[simp] theorem State.setListenBcast_ownAddr (s : State) (v : BitVec 1) : (s.setListenBcast v).ownAddr = s.ownAddr := rfl
@[simp] theorem State.setListenBcast_listen (s : State) (v : BitVec 1) : (s.setListenBcast v).listen = s.listen := rfl
@[simp] theorem State.setListenBcast_listenCount (s : State) (v : BitVec 1) : (s.setListenBcast v).listenCount = s.listenCount := rfl
@[simp] theorem State.setListenBcast_listenBcast (s : State) (v : BitVec 1) : (s.setListenBcast v).listenBcast = v := rfl
@[simp] theorem State.setListenBcast_rxTimedOut (s : State) (v : BitVec 1) : (s.setListenBcast v).rxTimedOut = s.rxTimedOut := rfl
@[simp] theorem State.setListenBcast_confSentOk (s : State) (v : BitVec 1) : (s.setListenBcast v).confSentOk = s.confSentOk := rfl
@[simp] theorem State.setListenBcast_seq (s : State) (v : BitVec 1) : (s.setListenBcast v).seq = s.seq := rfl
@[simp] theorem State.setListenBcast_result (s : State) (v : BitVec 1) : (s.setListenBcast v).result = s.result := rfl
@[simp] theorem State.setListenBcast_rxq (s : State) (v : BitVec 1) : (s.setListenBcast v).rxq = s.rxq := rfl
@[simp] theorem State.setListenBcast_txlog (s : State) (v : BitVec 1) : (s.setListenBcast v).txlog = s.txlog := rfl
@[simp] theorem State.setListenBcast_env (s : State) (v : BitVec 1) : (s.setListenBcast v).env = s.env := rfl
@[simp] theorem State.setListenBcast_choices (s : State) (v : BitVec 1) : (s.setListenBcast v).choices = s.choices := rfl

/-! ## setRxTimedOut -/

@[simp] theorem State.setRxTimedOut_mem (s : State) (v : BitVec 1) : (s.setRxTimedOut v).mem = s.mem := rfl
@[simp] theorem State.setRxTimedOut_ownAddr (s : State) (v : BitVec 1) : (s.setRxTimedOut v).ownAddr = s.ownAddr := rfl
@[simp] theorem State.setRxTimedOut_listen (s : State) (v : BitVec 1) : (s.setRxTimedOut v).listen = s.listen := rfl
@[simp] theorem State.setRxTimedOut_listenCount (s : State) (v : BitVec 1) : (s.setRxTimedOut v).listenCount = s.listenCount := rfl
@[simp] theorem State.setRxTimedOut_listenBcast (s : State) (v : BitVec 1) : (s.setRxTimedOut v).listenBcast = s.listenBcast := rfl
@[simp] theorem State.setRxTimedOut_rxTimedOut (s : State) (v : BitVec 1) : (s.setRxTimedOut v).rxTimedOut = v := rfl
@[simp] theorem State.setRxTimedOut_confSentOk (s : State) (v : BitVec 1) : (s.setRxTimedOut v).confSentOk = s.confSentOk := rfl
@[simp] theorem State.setRxTimedOut_seq (s : State) (v : BitVec 1) : (s.setRxTimedOut v).seq = s.seq := rfl
@[simp] theorem State.setRxTimedOut_result (s : State) (v : BitVec 1) : (s.setRxTimedOut v).result = s.result := rfl
@[simp] theorem State.setRxTimedOut_rxq (s : State) (v : BitVec 1) : (s.setRxTimedOut v).rxq = s.rxq := rfl
@[simp] theorem State.setRxTimedOut_txlog (s : State) (v : BitVec 1) : (s.setRxTimedOut v).txlog = s.txlog := rfl
@[simp] theorem State.setRxTimedOut_env (s : State) (v : BitVec 1) : (s.setRxTimedOut v).env = s.env := rfl
@[simp] theorem State.setRxTimedOut_choices (s : State) (v : BitVec 1) : (s.setRxTimedOut v).choices = s.choices := rfl

/-! ## setConfSentOk -/

@[simp] theorem State.setConfSentOk_mem (s : State) (v : BitVec 1) : (s.setConfSentOk v).mem = s.mem := rfl
@[simp] theorem State.setConfSentOk_ownAddr (s : State) (v : BitVec 1) : (s.setConfSentOk v).ownAddr = s.ownAddr := rfl
@[simp] theorem State.setConfSentOk_listen (s : State) (v : BitVec 1) : (s.setConfSentOk v).listen = s.listen := rfl
@[simp] theorem State.setConfSentOk_listenCount (s : State) (v : BitVec 1) : (s.setConfSentOk v).listenCount = s.listenCount := rfl
@[simp] theorem State.setConfSentOk_listenBcast (s : State) (v : BitVec 1) : (s.setConfSentOk v).listenBcast = s.listenBcast := rfl
@[simp] theorem State.setConfSentOk_rxTimedOut (s : State) (v : BitVec 1) : (s.setConfSentOk v).rxTimedOut = s.rxTimedOut := rfl
@[simp] theorem State.setConfSentOk_confSentOk (s : State) (v : BitVec 1) : (s.setConfSentOk v).confSentOk = v := rfl
@[simp] theorem State.setConfSentOk_seq (s : State) (v : BitVec 1) : (s.setConfSentOk v).seq = s.seq := rfl
@[simp] theorem State.setConfSentOk_result (s : State) (v : BitVec 1) : (s.setConfSentOk v).result = s.result := rfl
@[simp] theorem State.setConfSentOk_rxq (s : State) (v : BitVec 1) : (s.setConfSentOk v).rxq = s.rxq := rfl
@[simp] theorem State.setConfSentOk_txlog (s : State) (v : BitVec 1) : (s.setConfSentOk v).txlog = s.txlog := rfl
@[simp] theorem State.setConfSentOk_env (s : State) (v : BitVec 1) : (s.setConfSentOk v).env = s.env := rfl
@[simp] theorem State.setConfSentOk_choices (s : State) (v : BitVec 1) : (s.setConfSentOk v).choices = s.choices := rfl

/-! ## setSeq -/

@[simp] theorem State.setSeq_mem (s : State) (v : Seq) : (s.setSeq v).mem = s.mem := rfl
@[simp] theorem State.setSeq_ownAddr (s : State) (v : Seq) : (s.setSeq v).ownAddr = s.ownAddr := rfl
@[simp] theorem State.setSeq_listen (s : State) (v : Seq) : (s.setSeq v).listen = s.listen := rfl
@[simp] theorem State.setSeq_listenCount (s : State) (v : Seq) : (s.setSeq v).listenCount = s.listenCount := rfl
@[simp] theorem State.setSeq_listenBcast (s : State) (v : Seq) : (s.setSeq v).listenBcast = s.listenBcast := rfl
@[simp] theorem State.setSeq_rxTimedOut (s : State) (v : Seq) : (s.setSeq v).rxTimedOut = s.rxTimedOut := rfl
@[simp] theorem State.setSeq_confSentOk (s : State) (v : Seq) : (s.setSeq v).confSentOk = s.confSentOk := rfl
@[simp] theorem State.setSeq_seq (s : State) (v : Seq) : (s.setSeq v).seq = v := rfl
@[simp] theorem State.setSeq_result (s : State) (v : Seq) : (s.setSeq v).result = s.result := rfl
@[simp] theorem State.setSeq_rxq (s : State) (v : Seq) : (s.setSeq v).rxq = s.rxq := rfl
@[simp] theorem State.setSeq_txlog (s : State) (v : Seq) : (s.setSeq v).txlog = s.txlog := rfl
@[simp] theorem State.setSeq_env (s : State) (v : Seq) : (s.setSeq v).env = s.env := rfl
@[simp] theorem State.setSeq_choices (s : State) (v : Seq) : (s.setSeq v).choices = s.choices := rfl

/-! ## setResult -/

@[simp] theorem State.setResult_mem (s : State) (v : Option Result) : (s.setResult v).mem = s.mem := rfl
@[simp] theorem State.setResult_ownAddr (s : State) (v : Option Result) : (s.setResult v).ownAddr = s.ownAddr := rfl
@[simp] theorem State.setResult_listen (s : State) (v : Option Result) : (s.setResult v).listen = s.listen := rfl
@[simp] theorem State.setResult_listenCount (s : State) (v : Option Result) : (s.setResult v).listenCount = s.listenCount := rfl
@[simp] theorem State.setResult_listenBcast (s : State) (v : Option Result) : (s.setResult v).listenBcast = s.listenBcast := rfl
@[simp] theorem State.setResult_rxTimedOut (s : State) (v : Option Result) : (s.setResult v).rxTimedOut = s.rxTimedOut := rfl
@[simp] theorem State.setResult_confSentOk (s : State) (v : Option Result) : (s.setResult v).confSentOk = s.confSentOk := rfl
@[simp] theorem State.setResult_seq (s : State) (v : Option Result) : (s.setResult v).seq = s.seq := rfl
@[simp] theorem State.setResult_result (s : State) (v : Option Result) : (s.setResult v).result = v := rfl
@[simp] theorem State.setResult_rxq (s : State) (v : Option Result) : (s.setResult v).rxq = s.rxq := rfl
@[simp] theorem State.setResult_txlog (s : State) (v : Option Result) : (s.setResult v).txlog = s.txlog := rfl
@[simp] theorem State.setResult_env (s : State) (v : Option Result) : (s.setResult v).env = s.env := rfl
@[simp] theorem State.setResult_choices (s : State) (v : Option Result) : (s.setResult v).choices = s.choices := rfl

/-! ## setRxq -/

@[simp] theorem State.setRxq_mem (s : State) (v : List Byte) : (s.setRxq v).mem = s.mem := rfl
@[simp] theorem State.setRxq_ownAddr (s : State) (v : List Byte) : (s.setRxq v).ownAddr = s.ownAddr := rfl
@[simp] theorem State.setRxq_listen (s : State) (v : List Byte) : (s.setRxq v).listen = s.listen := rfl
@[simp] theorem State.setRxq_listenCount (s : State) (v : List Byte) : (s.setRxq v).listenCount = s.listenCount := rfl
@[simp] theorem State.setRxq_listenBcast (s : State) (v : List Byte) : (s.setRxq v).listenBcast = s.listenBcast := rfl
@[simp] theorem State.setRxq_rxTimedOut (s : State) (v : List Byte) : (s.setRxq v).rxTimedOut = s.rxTimedOut := rfl
@[simp] theorem State.setRxq_confSentOk (s : State) (v : List Byte) : (s.setRxq v).confSentOk = s.confSentOk := rfl
@[simp] theorem State.setRxq_seq (s : State) (v : List Byte) : (s.setRxq v).seq = s.seq := rfl
@[simp] theorem State.setRxq_result (s : State) (v : List Byte) : (s.setRxq v).result = s.result := rfl
@[simp] theorem State.setRxq_rxq (s : State) (v : List Byte) : (s.setRxq v).rxq = v := rfl
@[simp] theorem State.setRxq_txlog (s : State) (v : List Byte) : (s.setRxq v).txlog = s.txlog := rfl
@[simp] theorem State.setRxq_env (s : State) (v : List Byte) : (s.setRxq v).env = s.env := rfl
@[simp] theorem State.setRxq_choices (s : State) (v : List Byte) : (s.setRxq v).choices = s.choices := rfl

/-! ## setTxlog -/

@[simp] theorem State.setTxlog_mem (s : State) (v : List Byte) : (s.setTxlog v).mem = s.mem := rfl
@[simp] theorem State.setTxlog_ownAddr (s : State) (v : List Byte) : (s.setTxlog v).ownAddr = s.ownAddr := rfl
@[simp] theorem State.setTxlog_listen (s : State) (v : List Byte) : (s.setTxlog v).listen = s.listen := rfl
@[simp] theorem State.setTxlog_listenCount (s : State) (v : List Byte) : (s.setTxlog v).listenCount = s.listenCount := rfl
@[simp] theorem State.setTxlog_listenBcast (s : State) (v : List Byte) : (s.setTxlog v).listenBcast = s.listenBcast := rfl
@[simp] theorem State.setTxlog_rxTimedOut (s : State) (v : List Byte) : (s.setTxlog v).rxTimedOut = s.rxTimedOut := rfl
@[simp] theorem State.setTxlog_confSentOk (s : State) (v : List Byte) : (s.setTxlog v).confSentOk = s.confSentOk := rfl
@[simp] theorem State.setTxlog_seq (s : State) (v : List Byte) : (s.setTxlog v).seq = s.seq := rfl
@[simp] theorem State.setTxlog_result (s : State) (v : List Byte) : (s.setTxlog v).result = s.result := rfl
@[simp] theorem State.setTxlog_rxq (s : State) (v : List Byte) : (s.setTxlog v).rxq = s.rxq := rfl
@[simp] theorem State.setTxlog_txlog (s : State) (v : List Byte) : (s.setTxlog v).txlog = v := rfl
@[simp] theorem State.setTxlog_env (s : State) (v : List Byte) : (s.setTxlog v).env = s.env := rfl
@[simp] theorem State.setTxlog_choices (s : State) (v : List Byte) : (s.setTxlog v).choices = s.choices := rfl

/-! ## setEnv -/

@[simp] theorem State.setEnv_mem (s : State) (v : List Turn) : (s.setEnv v).mem = s.mem := rfl
@[simp] theorem State.setEnv_ownAddr (s : State) (v : List Turn) : (s.setEnv v).ownAddr = s.ownAddr := rfl
@[simp] theorem State.setEnv_listen (s : State) (v : List Turn) : (s.setEnv v).listen = s.listen := rfl
@[simp] theorem State.setEnv_listenCount (s : State) (v : List Turn) : (s.setEnv v).listenCount = s.listenCount := rfl
@[simp] theorem State.setEnv_listenBcast (s : State) (v : List Turn) : (s.setEnv v).listenBcast = s.listenBcast := rfl
@[simp] theorem State.setEnv_rxTimedOut (s : State) (v : List Turn) : (s.setEnv v).rxTimedOut = s.rxTimedOut := rfl
@[simp] theorem State.setEnv_confSentOk (s : State) (v : List Turn) : (s.setEnv v).confSentOk = s.confSentOk := rfl
@[simp] theorem State.setEnv_seq (s : State) (v : List Turn) : (s.setEnv v).seq = s.seq := rfl
@[simp] theorem State.setEnv_result (s : State) (v : List Turn) : (s.setEnv v).result = s.result := rfl
@[simp] theorem State.setEnv_rxq (s : State) (v : List Turn) : (s.setEnv v).rxq = s.rxq := rfl
@[simp] theorem State.setEnv_txlog (s : State) (v : List Turn) : (s.setEnv v).txlog = s.txlog := rfl
@[simp] theorem State.setEnv_env (s : State) (v : List Turn) : (s.setEnv v).env = v := rfl
@[simp] theorem State.setEnv_choices (s : State) (v : List Turn) : (s.setEnv v).choices = s.choices := rfl

/-! ## setChoices -/

@[simp] theorem State.setChoices_mem (s : State) (v : Nat) : (s.setChoices v).mem = s.mem := rfl
@[simp] theorem State.setChoices_ownAddr (s : State) (v : Nat) : (s.setChoices v).ownAddr = s.ownAddr := rfl
@[simp] theorem State.setChoices_listen (s : State) (v : Nat) : (s.setChoices v).listen = s.listen := rfl
@[simp] theorem State.setChoices_listenCount (s : State) (v : Nat) : (s.setChoices v).listenCount = s.listenCount := rfl
@[simp] theorem State.setChoices_listenBcast (s : State) (v : Nat) : (s.setChoices v).listenBcast = s.listenBcast := rfl
@[simp] theorem State.setChoices_rxTimedOut (s : State) (v : Nat) : (s.setChoices v).rxTimedOut = s.rxTimedOut := rfl
@[simp] theorem State.setChoices_confSentOk (s : State) (v : Nat) : (s.setChoices v).confSentOk = s.confSentOk := rfl
@[simp] theorem State.setChoices_seq (s : State) (v : Nat) : (s.setChoices v).seq = s.seq := rfl
@[simp] theorem State.setChoices_result (s : State) (v : Nat) : (s.setChoices v).result = s.result := rfl
@[simp] theorem State.setChoices_rxq (s : State) (v : Nat) : (s.setChoices v).rxq = s.rxq := rfl
@[simp] theorem State.setChoices_txlog (s : State) (v : Nat) : (s.setChoices v).txlog = s.txlog := rfl
@[simp] theorem State.setChoices_env (s : State) (v : Nat) : (s.setChoices v).env = s.env := rfl
@[simp] theorem State.setChoices_choices (s : State) (v : Nat) : (s.setChoices v).choices = v := rfl

end Sys2Proof.Machine
end

