-- ==== Sys2Proof/Laws/Memory.lean ====
section
/-! SUPPORT. The buffer space: a read after a write, and that every write keeps the canonical form. -/

namespace Sys2Proof.Machine

theorem Memory.read_without_same (m : Memory) (a : Nat) : (m.without a).read a = Memory.unlisted a := by
  induction m with
  | nil => rfl
  | cons c r ih =>
    obtain ⟨k, v⟩ := c
    by_cases h : k = a
    · simpa [Memory.without, h] using ih
    · simpa [Memory.without, h, Memory.read] using ih

theorem Memory.read_without_other (m : Memory) {a x : Nat} (h : x ≠ a) : (m.without a).read x = m.read x := by
  induction m with
  | nil => rfl
  | cons c r ih =>
    obtain ⟨k, v⟩ := c
    by_cases hk : k = a
    · have : k ≠ x := fun e => h (e ▸ hk)
      simpa [Memory.without, hk, Memory.read, Ne.symm h] using ih
    · by_cases hx : k = x
      · subst hx; simp [Memory.without, hk, Memory.read]
      · simpa [Memory.without, hk, Memory.read, hx] using ih

theorem Memory.read_place_same {m : Memory} {a : Nat} (b : Byte) (h : ∀ c ∈ m, c.1 ≠ a) :
    (m.place a b).read a = b := by
  induction m with
  | nil => simp [Memory.place, Memory.read]
  | cons c r ih =>
    obtain ⟨k, v⟩ := c
    have hk : k ≠ a := h (k, v) (by simp)
    have hr : ∀ c ∈ r, c.1 ≠ a := fun c hc => h c (by simp [hc])
    simp only [Memory.place]
    split
    · simp [Memory.read]
    · simpa [Memory.read, hk] using ih hr

theorem Memory.read_place_other (m : Memory) {a x : Nat} (b : Byte) (h : x ≠ a) :
    (m.place a b).read x = m.read x := by
  induction m with
  | nil => simp [Memory.place, Memory.read, Ne.symm h]
  | cons c r ih =>
    obtain ⟨k, v⟩ := c
    simp only [Memory.place]
    split
    · simp [Memory.read, Ne.symm h]
    · by_cases hx : k = x
      · simp [Memory.read, hx]
      · simpa [Memory.read, hx] using ih

/-- All a read after a write can give. -/
theorem Memory.read_write (m : Memory) (a x : Nat) (b : Byte) :
    (m.write a b).read x = if x = a then b else m.read x := by
  unfold Memory.write
  by_cases h : x = a
  · subst h
    split
    · simp_all [Memory.read_without_same]
    · simp only [if_true]
      exact Memory.read_place_same b (by simp [Memory.without])
  · split
    · simp [h, Memory.read_without_other]
    · simp [h, Memory.read_place_other, Memory.read_without_other]

theorem Memory.without_wf {m : Memory} (a : Nat) (h : m.wf = true) : (m.without a).wf = true := by
  induction m with
  | nil => rfl
  | cons c r ih =>
    obtain ⟨k, v⟩ := c
    simp only [Memory.wf, Bool.and_eq_true, List.all_eq_true, decide_eq_true_eq] at h
    obtain ⟨⟨⟨h1, h2⟩, h3⟩, h4⟩ := h
    by_cases hk : k = a
    · simpa [Memory.without, hk] using ih h4
    · have e : Memory.without ((k, v) :: r) a = (k, v) :: Memory.without r a := by simp [Memory.without, hk]
      rw [e]
      simp only [Memory.wf, Bool.and_eq_true, List.all_eq_true, decide_eq_true_eq]
      refine ⟨⟨⟨h1, h2⟩, fun c hc => h3 c ?_⟩, ih h4⟩
      exact List.mem_of_mem_filter hc

theorem Memory.mem_place {m : Memory} {a : Nat} {b : Byte} {c : Host.Cell} (h : c ∈ m.place a b) :
    c = (a, b) ∨ c ∈ m := by
  induction m with
  | nil => simpa [Memory.place] using h
  | cons d r ih =>
    obtain ⟨k, v⟩ := d
    simp only [Memory.place] at h
    split at h
    · simpa using h
    · rcases List.mem_cons.mp h with h | h
      · simp [h]
      · rcases ih h with h | h <;> simp [h]

theorem Memory.place_wf {m : Memory} {a : Nat} {b : Byte} (h : m.wf = true) (ha : addrExists a = true)
    (hb : b ≠ Memory.unlisted a) (hm : ∀ c ∈ m, c.1 ≠ a) : (m.place a b).wf = true := by
  induction m with
  | nil => simp [Memory.place, Memory.wf, ha, hb]
  | cons c r ih =>
    obtain ⟨k, v⟩ := c
    have hk : k ≠ a := hm (k, v) (by simp)
    have hr : ∀ c ∈ r, c.1 ≠ a := fun c hc => hm c (by simp [hc])
    have h0 := h
    simp only [Memory.wf, Bool.and_eq_true, List.all_eq_true, decide_eq_true_eq] at h
    obtain ⟨⟨⟨h1, h2⟩, h3⟩, h4⟩ := h
    simp only [Memory.place]
    split
    · rename_i hlt
      simp only [Memory.wf, Bool.and_eq_true, List.all_eq_true, decide_eq_true_eq]
      refine ⟨⟨⟨ha, by simp [hb]⟩, fun c hc => ?_⟩, by simpa [Memory.wf] using h0⟩
      rcases List.mem_cons.mp hc with hc | hc
      · subst hc; exact hlt
      · exact Nat.lt_trans hlt (h3 c hc)
    · rename_i hge
      simp only [Memory.wf, Bool.and_eq_true, List.all_eq_true, decide_eq_true_eq]
      refine ⟨⟨⟨h1, h2⟩, fun c hc => ?_⟩, ih h4 hr⟩
      rcases Memory.mem_place hc with hc | hc
      · subst hc; show k < a; omega
      · exact h3 c hc

/-- A write to an address that exists keeps the canonical form. -/
theorem Memory.write_wf {m : Memory} {a : Nat} (b : Byte) (h : m.wf = true) (ha : addrExists a = true) :
    (m.write a b).wf = true := by
  unfold Memory.write
  split
  · exact Memory.without_wf a h
  · exact Memory.place_wf (Memory.without_wf a h) ha ‹_› (by simp [Memory.without])

theorem Memory.read_below {m : Memory} {a : Nat} (h : ∀ c ∈ m, a < c.1) : m.read a = Memory.unlisted a := by
  induction m with
  | nil => rfl
  | cons c r ih =>
    obtain ⟨k, v⟩ := c
    have hk : a < k := h (k, v) (by simp)
    have : ¬ k = a := by omega
    simp only [Memory.read, this, if_false]
    exact ih (fun c hc => h c (by simp [hc]))

/-- Canonical memories that read alike at every address are the same data. -/
theorem Memory.eq_of_read {m n : Memory} (hm : m.wf = true) (hn : n.wf = true)
    (h : ∀ a, m.read a = n.read a) : m = n := by
  induction m generalizing n with
  | nil =>
    cases n with
    | nil => rfl
    | cons c r =>
      obtain ⟨k, v⟩ := c
      simp only [Memory.wf, Bool.and_eq_true, bne_iff_ne] at hn
      have := h k
      simp only [Memory.read, if_true] at this
      exact absurd this.symm hn.1.1.2
  | cons c r ih =>
    obtain ⟨k, v⟩ := c
    have hm0 := hm
    simp only [Memory.wf, Bool.and_eq_true, bne_iff_ne, List.all_eq_true, decide_eq_true_eq] at hm
    obtain ⟨⟨⟨-, hv⟩, hk⟩, hr⟩ := hm
    cases n with
    | nil =>
      have := h k
      simp only [Memory.read, if_true] at this
      exact absurd this hv
    | cons d q =>
      obtain ⟨l, w⟩ := d
      simp only [Memory.wf, Bool.and_eq_true, bne_iff_ne, List.all_eq_true, decide_eq_true_eq] at hn
      obtain ⟨⟨⟨-, hw⟩, hl⟩, hq⟩ := hn
      have hkl : k = l := by
        rcases Nat.lt_trichotomy k l with e | e | e
        · have := h k
          have hne : ¬ l = k := by omega
          simp only [Memory.read, if_true, hne, if_false] at this
          rw [Memory.read_below (fun c hc => Nat.lt_trans e (hl c hc))] at this
          exact absurd this hv
        · exact e
        · have := h l
          have hne : ¬ k = l := by omega
          simp only [Memory.read, if_true, hne, if_false] at this
          rw [Memory.read_below (fun c hc => Nat.lt_trans e (hk c hc))] at this
          exact absurd this.symm hw
      subst hkl
      have hvw : v = w := by simpa [Memory.read] using h k
      subst hvw
      congr 1
      refine ih hr hq fun a => ?_
      by_cases e : k = a
      · subst e
        rw [Memory.read_below hk, Memory.read_below hl]
      · simpa [Memory.read, e] using h a
/-- The two buffers share no byte. -/
theorem addr_inj {b c : Buf} {i j : Nat} (hi : i < 32) (hj : j < 32) : addr b i = addr c j ↔ b = c ∧ i = j := by
  cases b <;> cases c <;> simp [addr] <;> omega

theorem addrExists_addr {sel : Buf} {i : Nat} (h : i ≤ 22) : addrExists (addr sel i) = true := by
  refine Bool.and_eq_true_iff.mpr ⟨decide_eq_true ?_, decide_eq_true ?_⟩ <;> cases sel <;>
    simp only [addr, Config.tgCapacity] <;> omega

end Sys2Proof.Machine
end

