-- ==== Sys2Proof/Laws/Telegram.lean ====
section
/-! SUPPORT. What the telegram operations do to one byte, and that they change nothing but the memory. -/

namespace Sys2Proof.Machine

/-! ## Only the memory -/

/-- `t` differs from `s` in the memory at most. -/
theorem State.setMem_eq (s : State) : s = s.setMem s.mem := rfl

@[simp] theorem State.setMem_setMem (s : State) (m n : Memory) : (s.setMem m).setMem n = s.setMem n := rfl

theorem State.setByte_eq (s : State) (sel : Buf) (i : Nat) (v : Byte) :
    s.setByte sel i v = s.setMem (s.mem.write (addr sel i) v) := rfl

theorem State.setByte_frame (s : State) (sel : Buf) (i : Nat) (v : Byte) :
    s.setByte sel i v = s.setMem (s.setByte sel i v).mem := rfl

theorem State.setField_frame {n : Nat} (s : State) (sel : Buf) (i lo : Nat) (v : BitVec n) :
    s.setField sel i lo v = s.setMem (s.setField sel i lo v).mem := rfl

theorem State.fill_frame (s : State) (sel : Buf) (i : Nat) (l : List Byte) :
    s.fill sel i l = s.setMem (s.fill sel i l).mem := by
  induction l generalizing s i with
  | nil => rfl
  | cons b r ih => rw [State.fill, ih (s.setByte sel i b) (i + 1)]; rfl

theorem State.clearBuf_frame (s : State) (sel : Buf) : s.clearBuf sel = s.setMem (s.clearBuf sel).mem :=
  State.fill_frame s sel 0 clearTelegram

theorem State.putLength_frame (s : State) (sel : Buf) (n : Nat) :
    s.putLength sel n = s.setMem (s.putLength sel n).mem := rfl

theorem State.putSource_frame (s : State) (sel : Buf) (hi lo : Byte) :
    s.putSource sel hi lo = s.setMem (s.putSource sel hi lo).mem := rfl

theorem State.putTarget_frame (s : State) (sel : Buf) (hi lo : Byte) (k : BitVec 1) :
    s.putTarget sel hi lo k = s.setMem (s.putTarget sel hi lo k).mem := rfl

theorem State.putChecksum_frame (s : State) (sel : Buf) :
    s.putChecksum sel = s.setMem (s.putChecksum sel).mem := rfl

theorem State.putValue_frame (s : State) (sel : Buf) (n : Nat) (l : List Byte) :
    s.putValue sel n l = s.setMem (s.putValue sel n l).mem := by
  rw [State.putValue, State.fill_frame, State.putLength_frame]; rfl

/-! ## One byte read after a write -/

/-- A byte read by its address after one byte is stored. -/
theorem State.read_setByte (s : State) (sel : Buf) (i a : Nat) (v : Byte) :
    (s.setByte sel i v).mem.read a = if a = addr sel i then v else s.mem.read a :=
  Memory.read_write s.mem (addr sel i) a v

theorem State.byte_setByte_same (s : State) (sel : Buf) (i : Nat) (v : Byte) : (s.setByte sel i v).byte sel i = v := by
  simp [State.byte, State.read_setByte]

theorem State.byte_setByte_ne (s : State) (sel : Buf) {i j : Nat} (v : Byte) (h : j ≠ i) :
    (s.setByte sel i v).byte sel j = s.byte sel j := by
  cases sel <;> simp [State.byte, State.read_setByte, addr, h]

theorem State.byte_setByte_other (s : State) {b c : Buf} {i j : Nat} (v : Byte) (h : c ≠ b) (hi : i < 32)
    (hj : j < 32) : (s.setByte b i v).byte c j = s.byte c j := by
  rw [State.byte, State.read_setByte, if_neg, State.byte]
  rw [addr_inj hj hi]
  exact fun e => h e.1

theorem State.read_setField {n : Nat} (s : State) (sel : Buf) (i lo a : Nat) (v : BitVec n) :
    (s.setField sel i lo v).mem.read a =
      if a = addr sel i then putBits (s.byte sel i) lo v else s.mem.read a :=
  State.read_setByte s sel i a _

theorem addr_add (sel : Buf) (i k : Nat) : addr sel (i + k) = addr sel i + k := by
  cases sel <;> simp [addr]; omega

/-- A byte read by its address after a run of bytes is stored. -/
theorem State.read_fill (s : State) (sel : Buf) (i a : Nat) (l : List Byte) :
    (s.fill sel i l).mem.read a =
      if addr sel i ≤ a ∧ a < addr sel i + l.length then l.getD (a - addr sel i) 0x00#8 else s.mem.read a := by
  induction l generalizing s i with
  | nil =>
    have : ¬ (addr sel i ≤ a ∧ a < addr sel i + ([] : List Byte).length) := by simp
    rw [if_neg this]; rfl
  | cons b r ih =>
    rw [State.fill, ih, State.read_setByte, addr_add]
    simp only [List.length_cons]
    by_cases h : a = addr sel i
    · subst h
      simp
    · by_cases h1 : addr sel i + 1 ≤ a ∧ a < addr sel i + 1 + r.length
      · have h2 : addr sel i ≤ a ∧ a < addr sel i + (r.length + 1) := by omega
        have h3 : a - addr sel i = (a - (addr sel i + 1)) + 1 := by omega
        rw [if_pos h1, if_pos h2, h3, List.getD_cons_succ]
      · have h2 : ¬ (addr sel i ≤ a ∧ a < addr sel i + (r.length + 1)) := by omega
        rw [if_neg h1, if_neg h2, if_neg h]

theorem length_clearTelegram : clearTelegram.length = 23 := rfl

/-- A byte read by its address after CLEAR. -/
theorem State.read_clearBuf (s : State) (sel : Buf) (a : Nat) :
    (s.clearBuf sel).mem.read a =
      if addr sel 0 ≤ a ∧ a ≤ addr sel 22 then clearByte (a - addr sel 0) else s.mem.read a := by
  rw [State.clearBuf, State.read_fill, length_clearTelegram]
  have e : addr sel 22 = addr sel 0 + 22 := addr_add sel 0 22
  by_cases h : addr sel 0 ≤ a ∧ a ≤ addr sel 22
  · have h1 : addr sel 0 ≤ a ∧ a < addr sel 0 + 23 := by omega
    have h2 : a - addr sel 0 < 23 := by omega
    rw [if_pos h, if_pos h1]
    simp [clearTelegram, Config.tgCapacity, List.getD, h2]
  · have h1 : ¬ (addr sel 0 ≤ a ∧ a < addr sel 0 + 23) := by omega
    rw [if_neg h, if_neg h1]

theorem State.byte_clearBuf (s : State) (sel : Buf) {i : Nat} (h : i ≤ 22) :
    (s.clearBuf sel).byte sel i = clearByte i := by
  have e : addr sel i = addr sel 0 + i := by simpa using addr_add sel 0 i
  have f : addr sel 22 = addr sel 0 + 22 := addr_add sel 0 22
  have h1 : addr sel 0 ≤ addr sel i ∧ addr sel i ≤ addr sel 22 := by omega
  rw [State.byte, State.read_clearBuf, if_pos h1, e, Nat.add_sub_cancel_left]

/-- Any byte of either buffer after a field is written. -/
theorem State.byte_setField {n : Nat} (s : State) (sel b : Buf) (i lo k : Nat) (v : BitVec n) (hi : i ≤ 22)
    (hk : k ≤ 22) :
    (s.setField sel i lo v).byte b k = if b = sel ∧ k = i then putBits (s.byte sel i) lo v else s.byte b k := by
  rw [State.byte, State.read_setField]
  by_cases h : b = sel ∧ k = i
  · rw [if_pos h, if_pos ((addr_inj (by omega) (by omega)).mpr h)]
  · rw [if_neg h, if_neg (fun e => h ((addr_inj (by omega) (by omega)).mp e))]; rfl

/-- Any byte of either buffer after a byte is written. -/
theorem State.byte_setByte (s : State) (sel b : Buf) (i k : Nat) (v : Byte) (hi : i ≤ 22) (hk : k ≤ 22) :
    (s.setByte sel i v).byte b k = if b = sel ∧ k = i then v else s.byte b k := by
  rw [State.byte, State.read_setByte]
  by_cases h : b = sel ∧ k = i
  · rw [if_pos h, if_pos ((addr_inj (by omega) (by omega)).mpr h)]
  · rw [if_neg h, if_neg (fun e => h ((addr_inj (by omega) (by omega)).mp e))]; rfl

theorem State.setByte_wf {s : State} {sel : Buf} {i : Nat} (v : Byte) (h : s.mem.wf = true) (hi : i ≤ 22) :
    (s.setByte sel i v).mem.wf = true :=
  Memory.write_wf v h (addrExists_addr hi)

theorem State.fill_wf {s : State} {sel : Buf} {i : Nat} {l : List Byte} (h : s.mem.wf = true)
    (hi : i + l.length ≤ 23) : (s.fill sel i l).mem.wf = true := by
  induction l generalizing s i with
  | nil => exact h
  | cons b r ih =>
    rw [List.length_cons] at hi
    exact ih (State.setByte_wf b h (by omega)) (by omega)

/-- All CLEAR does: a memory that reads as the CLEAR telegram in one buffer and as before elsewhere, canonical if the
old one was. Cite this instead of unfolding CLEAR. -/
theorem State.clearBuf_cases (s : State) (sel : Buf) : ∃ m : Memory, s.clearBuf sel = s.setMem m ∧
    (∀ a, m.read a = if addr sel 0 ≤ a ∧ a ≤ addr sel 22 then clearByte (a - addr sel 0) else s.mem.read a) ∧
    (∀ i, i ≤ 22 → (s.setMem m).byte sel i = clearByte i) ∧ (s.mem.wf = true → m.wf = true) := by
  refine ⟨(s.clearBuf sel).mem, s.clearBuf_frame sel, fun a => s.read_clearBuf sel a, fun i hi => ?_, fun h => ?_⟩
  · exact s.byte_clearBuf sel hi
  · exact State.fill_wf h (by rw [length_clearTelegram])

/-! ## The lengths -/

theorem State.payloadLength_le (s : State) (sel : Buf) : s.payloadLength sel ≤ 16 := by
  have := (s.field sel 5 0 4).isLt
  simp only [State.payloadLength]
  omega

theorem State.payloadLength_pos (s : State) (sel : Buf) : 1 ≤ s.payloadLength sel := by
  simp [State.payloadLength]

theorem State.totalLength_eq (s : State) (sel : Buf) : s.totalLength sel = s.payloadLength sel + 7 := by
  simp only [State.totalLength, Config.headerSize]; omega

theorem State.totalLength_bounds (s : State) (sel : Buf) : 8 ≤ s.totalLength sel ∧ s.totalLength sel ≤ 23 := by
  have h1 := s.payloadLength_le sel
  have h2 := s.payloadLength_pos sel
  rw [State.totalLength_eq]
  omega

theorem State.checksumPos_bounds (s : State) (sel : Buf) : 7 ≤ s.checksumPos sel ∧ s.checksumPos sel ≤ 22 := by
  have h1 := s.payloadLength_le sel
  have h2 := s.payloadLength_pos sel
  simp only [State.checksumPos, Config.headerSize]
  omega

/-- The length reads byte 5 alone. -/
theorem State.payloadLength_congr {s t : State} {b c : Buf} (h : t.byte c 5 = s.byte b 5) :
    t.payloadLength c = s.payloadLength b := by
  simp only [State.payloadLength, State.field, h]

theorem State.totalLength_congr {s t : State} {b c : Buf} (h : t.byte c 5 = s.byte b 5) :
    t.totalLength c = s.totalLength b := by
  simp only [State.totalLength, State.payloadLength_congr h]

/-! ## The canonical form -/

theorem State.clearBuf_wf {s : State} (sel : Buf) (h : s.mem.wf = true) : (s.clearBuf sel).mem.wf = true :=
  State.fill_wf h (by rw [length_clearTelegram])

theorem State.putSource_wf {s : State} (sel : Buf) (hi lo : Byte) (h : s.mem.wf = true) :
    (s.putSource sel hi lo).mem.wf = true :=
  State.setByte_wf _ (State.setByte_wf _ h (by omega)) (by omega)

theorem State.putTarget_wf {s : State} (sel : Buf) (hi lo : Byte) (k : BitVec 1) (h : s.mem.wf = true) :
    (s.putTarget sel hi lo k).mem.wf = true :=
  State.setByte_wf _ (State.setByte_wf _ (State.setByte_wf _ h (by omega)) (by omega)) (by omega)

theorem State.putLength_wf {s : State} (sel : Buf) (n : Nat) (h : s.mem.wf = true) :
    (s.putLength sel n).mem.wf = true :=
  State.setByte_wf _ h (by omega)

theorem State.putChecksum_wf {s : State} (sel : Buf) (h : s.mem.wf = true) : (s.putChecksum sel).mem.wf = true :=
  State.setByte_wf _ h (s.checksumPos_bounds sel).2

theorem State.putValue_wf {s : State} (sel : Buf) (n : Nat) (l : List Byte) (h : s.mem.wf = true)
    (hl : l.length ≤ 15) : (s.putValue sel n l).mem.wf = true :=
  State.fill_wf (State.putLength_wf sel n h) (by omega)

end Sys2Proof.Machine
end

