-- ==== Sys2Proof/Laws/Command.lean ====
section
/-! SUPPORT. What the command port's operations can answer, and the shape of a command that only writes a buffer. -/

namespace Sys2Proof.Machine

theorem whenIdle_of_idle {s : State} {k : Out} (h : s.seq = .idle) : whenIdle s k = k := if_pos h

theorem whenIdle_of_busy {s : State} {k : Out} (h : s.seq ≠ .idle) : whenIdle s k = .refused .busy := if_neg h

theorem whenIdle_next {s t : State} {k : Out} : whenIdle s k = .next t ↔ s.seq = .idle ∧ k = .next t := by
  unfold whenIdle
  split <;> simp_all

theorem answer_next {s t : State} {r : Result} : answer s r = .next t ↔ t = s.setResult (some r) := by
  simp [answer, eq_comm]

theorem begin_next {s t : State} {q : Seq} : begin s q = .next t ↔ t = (s.setResult none).setSeq q := by
  simp [begin, eq_comm]

/-- Nothing a command answers is a fault. -/
theorem whenIdle_not_fault {s : State} {k : Out} {f : Fault} : whenIdle s k ≠ .fault f := nomatch f

/-- A command whose effect is `u`, a state that differs from `s` in the memory at most, completes with what `u`'s memory
reads. -/
theorem Completes.of_frame {i : Instr} {s u : State} {r : Result} {f : Nat → Byte}
    (h : exec i s = .next (u.setResult (some r))) (hu : u = s.setMem u.mem) (hf : ∀ a, u.mem.read a = f a) :
    Completes i s r f :=
  have e : u.setResult (some r) = (s.setMem u.mem).setResult (some r) := by rw [← hu]
  ⟨_, h, e, hf⟩

/-- A command that only answers. -/
theorem getter {s : State} (h : s.seq = .idle) {r r' : Result} (e : r = r') :
    whenIdle s (answer s r) = .next (s.setResult (some r')) := by
  rw [whenIdle_of_idle h, answer, e]

/-- A command that writes one field, in the numbers of the spec. -/
theorem fieldSetter {i : Instr} {s : State} {sel : Buf} {k lo n : Nat} {v : BitVec n} {w : Byte} (h : s.seq = .idle)
    (he : exec i s = whenIdle s (answer (s.setField sel k lo v) .empty)) (hw : putBits (s.byte sel k) lo v = w) :
    Completes i s .empty (s.readPatched sel k w) := by
  refine Completes.of_frame (u := s.setField sel k lo v) (by rw [he, whenIdle_of_idle h]; rfl)
    (s.setField_frame sel k lo v) fun a => ?_
  rw [State.read_setField, hw]; rfl

end Sys2Proof.Machine
end

