-- ==== Sys2Proof/Laws/Buffer.lean ====
section
/-! SUPPORT. All a codec, checksum or datapoint command can do, said once. -/

namespace Sys2Proof.Machine

/-- What a command that completes in one step leaves. -/
theorem command_done {s t u : State} {r : Result} (h : whenIdle s (answer u r) = .next t) :
    s.seq = .idle ∧ t = u.setResult (some r) := by
  obtain ⟨h1, h2⟩ := whenIdle_next.mp h
  exact ⟨h1, answer_next.mp h2⟩

/-- A field setter leaves its field at the value set. -/
theorem field_done {n : Nat} {s t : State} {sel : Buf} {i lo : Nat} {v : BitVec n} (hl : lo + n ≤ 8)
    (h : whenIdle s (answer (s.setField sel i lo v) .empty) = .next t) :
    t.seq = .idle ∧ t.field sel i lo n = v := by
  obtain ⟨h1, rfl⟩ := command_done h
  refine ⟨h1, ?_⟩
  show getBits ((s.setField sel i lo v).byte sel i) lo n = v
  rw [State.setField, State.byte_setByte_same, getBits_putBits_same _ _ _ hl]

/-- SET_BYTE leaves its byte at the value set and every other byte of that buffer as it was. -/
theorem setByte_done {s t : State} {sel : Buf} {j : Nat} {v : Byte} (hj : j ≤ 22)
    (h : exec (.setByte sel (BitVec.ofNat 5 j) v) s = .next t) :
    t.seq = .idle ∧ ∀ k ≤ 22, t.byte sel k = if k = j then v else s.byte sel k := by
  obtain ⟨h1, h2⟩ := whenIdle_next.mp h
  have e : (BitVec.ofNat 5 j).toNat = j := by simp; omega
  split at h2
  · cases h2
  · rw [answer_next, e] at h2
    refine ⟨by rw [h2]; exact h1, fun k hk => ?_⟩
    rw [h2]
    show (s.setByte sel j v).byte sel k = _
    rw [State.byte_setByte _ _ _ _ _ _ hj hk]
    simp

/-- Byte `k` of a buffer lies `k` addresses above byte 0. -/
theorem addr_eq (sel : Buf) (k : Nat) : addr sel k = addr sel 0 + k := by simpa using addr_add sel 0 k

/-- All an encoder writes: the length field of byte 5, and its value bytes from byte 8. -/
theorem read_putValue (s : State) (sel : Buf) (n : Nat) (l : List Byte) (a : Nat) :
    (s.putValue sel n l).mem.read a =
      if addr sel 8 ≤ a ∧ a < addr sel 8 + l.length then l.getD (a - addr sel 8) 0x00#8
      else if a = addr sel 5 then putBits (s.byte sel 5) 0 (BitVec.ofNat 4 (n - 1)) else s.mem.read a := by
  rw [State.putValue, State.read_fill, State.putLength, State.read_setField]

/-- The length field written, in the numbers of the spec. -/
theorem putBits_length (x : Byte) (n : Nat) (v : BitVec 4) (w : Byte) (h : BitVec.ofNat 4 (n - 1) = v) (hw : v.setWidth 8 = w) :
    putBits x 0 (BitVec.ofNat 4 (n - 1)) = (x &&& 0xF0#8) ||| w := by
  rw [putBits_mask _ _ _ (by decide), BitVec.shiftLeft_zero, h, hw]; rfl

/-- All a command of the codec, checksum and datapoint files can do: it answers from IDLE, writes bytes of the buffer it
names and no other, and moves the free-value counter. -/
theorem exec_buffer_cases {i : Instr} {b : Buf} {s t : State} (hb : i.buffer = some b) (h : exec i s = .next t) :
    s.seq = .idle ∧ ∃ (m : Memory) (r : Result) (k : Nat), t = ((s.setMem m).setChoices k).setResult (some r) ∧
      (∀ a, ¬ (addr b 0 ≤ a ∧ a ≤ addr b 22) → m.read a = s.mem.read a) ∧ (s.mem.wf = true → m.wf = true) := by
  have G : ∀ {u : State} {r : Result} {k : Nat}, whenIdle s (answer u r) = .next t → u = (s.setMem u.mem).setChoices k →
      (∀ a, ¬ (addr b 0 ≤ a ∧ a ≤ addr b 22) → u.mem.read a = s.mem.read a) → (s.mem.wf = true → u.mem.wf = true) →
      s.seq = .idle ∧ ∃ (m : Memory) (r : Result) (k : Nat), t = ((s.setMem m).setChoices k).setResult (some r) ∧
      (∀ a, ¬ (addr b 0 ≤ a ∧ a ≤ addr b 22) → m.read a = s.mem.read a) ∧ (s.mem.wf = true → m.wf = true) := by
    intro u r k hw hu hr hwf
    obtain ⟨h1, h2⟩ := command_done hw
    refine ⟨h1, u.mem, r, k, ?_, hr, hwf⟩
    rw [h2]
    conv_lhs => rw [hu]
  have F : ∀ {u : State} {r : Result}, whenIdle s (answer u r) = .next t → u = s.setMem u.mem →
      (∀ a, ¬ (addr b 0 ≤ a ∧ a ≤ addr b 22) → u.mem.read a = s.mem.read a) → (s.mem.wf = true → u.mem.wf = true) →
      s.seq = .idle ∧ ∃ (m : Memory) (r : Result) (k : Nat), t = ((s.setMem m).setChoices k).setResult (some r) ∧
      (∀ a, ¬ (addr b 0 ≤ a ∧ a ≤ addr b 22) → m.read a = s.mem.read a) ∧ (s.mem.wf = true → m.wf = true) := by
    intro u r hw hu hr hwf
    obtain ⟨h1, h2⟩ := command_done hw
    refine ⟨h1, u.mem, r, s.choices, ?_, hr, hwf⟩
    rw [h2]
    conv_lhs => rw [hu]
    rfl
  have K : ∀ {a : Nat}, ¬ (addr b 0 ≤ a ∧ a ≤ addr b 22) → ∀ k, k ≤ 22 → a ≠ addr b k := by
    intro a ha k hk e
    apply ha
    subst e
    cases b <;> simp only [addr] <;> omega
  have N : ∀ {r : Result}, whenIdle s (answer s r) = .next t → s.seq = .idle ∧ ∃ (m : Memory) (r : Result) (k : Nat), t = ((s.setMem m).setChoices k).setResult (some r) ∧
      (∀ a, ¬ (addr b 0 ≤ a ∧ a ≤ addr b 22) → m.read a = s.mem.read a) ∧ (s.mem.wf = true → m.wf = true) :=
    fun hw => F hw rfl (fun _ _ => rfl) id
  have B : ∀ {r : Result} {k : Nat} {v : Byte}, k ≤ 22 → whenIdle s (answer (s.setByte b k v) r) = .next t →
      s.seq = .idle ∧ ∃ (m : Memory) (r : Result) (k : Nat), t = ((s.setMem m).setChoices k).setResult (some r) ∧
      (∀ a, ¬ (addr b 0 ≤ a ∧ a ≤ addr b 22) → m.read a = s.mem.read a) ∧ (s.mem.wf = true → m.wf = true) := by
    intro r k v hk hw
    refine F hw rfl (fun a ha => ?_) (fun h => State.setByte_wf _ h hk)
    rw [State.read_setByte, if_neg (K ha k hk)]
  have VR : ∀ {n : Nat} {l : List Byte}, l.length ≤ 14 → ∀ a, ¬ (addr b 0 ≤ a ∧ a ≤ addr b 22) →
      (s.putValue b n l).mem.read a = s.mem.read a := by
    intro n l hl a ha
    rw [State.putValue, State.read_fill, if_neg, State.putLength, State.read_setField, if_neg (K ha 5 (by decide))]
    rintro ⟨h1, h2⟩
    apply ha
    cases b <;> simp only [addr] at h1 h2 ⊢ <;> omega
  have V : ∀ {r : Result} {n : Nat} {l : List Byte}, l.length ≤ 14 → whenIdle s (answer (s.putValue b n l) r) = .next t →
      s.seq = .idle ∧ ∃ (m : Memory) (r : Result) (k : Nat), t = ((s.setMem m).setChoices k).setResult (some r) ∧
      (∀ a, ¬ (addr b 0 ≤ a ∧ a ≤ addr b 22) → m.read a = s.mem.read a) ∧ (s.mem.wf = true → m.wf = true) := by
    intro r n l hl hw
    refine F hw (s.putValue_frame b n l) (fun a ha => ?_) (fun h => State.putValue_wf _ _ _ h (by omega))
    rw [State.putValue, State.read_fill, if_neg, State.putLength, State.read_setField, if_neg (K ha 5 (by decide))]
    rintro ⟨h1, h2⟩
    apply ha
    cases b <;> simp only [addr] at h1 h2 ⊢ <;> omega
  cases i <;> simp only [Instr.buffer] at hb <;> cases hb
  all_goals try exact N h
  case clear =>
    obtain ⟨m, hm, hr, -, hwf⟩ := State.clearBuf_cases s b
    have h' : whenIdle s (answer (s.setMem m) .empty) = .next t := by rw [← hm]; exact h
    exact F h' rfl (fun a ha => by rw [show (s.setMem m).mem = m from rfl, hr, if_neg ha]) hwf
  case setByte idx v =>
    obtain ⟨h0, h1⟩ := whenIdle_next.mp h
    split at h1
    · cases h1
    · exact B (by omega) (whenIdle_next.mpr ⟨h0, h1⟩)
  case getByte idx =>
    obtain ⟨h0, h1⟩ := whenIdle_next.mp h
    split at h1
    · cases h1
    · exact N (whenIdle_next.mpr ⟨h0, h1⟩)
  case setPayloadLength n =>
    obtain ⟨h0, h1⟩ := whenIdle_next.mp h
    split at h1
    · cases h1
    · exact B (by decide) (whenIdle_next.mpr ⟨h0, h1⟩)
  case setRepeated => exact B (by decide) h
  case setPriority => exact B (by decide) h
  case setTargetType => exact B (by decide) h
  case setRoutingCounter => exact B (by decide) h
  case setCommType => exact B (by decide) h
  case setSequenceNumber => exact B (by decide) h
  case setControlData => exact B (by decide) h
  case setExtendedCommand => exact B (by decide) h
  case setFirstDataByte => exact B (by decide) h
  case createChecksum => exact B (s.checksumPos_bounds b).2 h
  case setSourceAddress =>
    refine F h (s.putSource_frame b _ _) (fun a ha => ?_) (fun h => State.putSource_wf b _ _ h)
    rw [State.putSource, State.read_setByte, State.read_setByte, if_neg (K ha 2 (by decide)), if_neg (K ha 1 (by decide))]
  case setTargetGroup =>
    refine F h (s.putTarget_frame b _ _ _) (fun a ha => ?_) (fun h => State.putTarget_wf b _ _ _ h)
    rw [State.putTarget, State.read_setField, State.read_setByte, State.read_setByte, if_neg (K ha 5 (by decide)), if_neg (K ha 4 (by decide)), if_neg (K ha 3 (by decide))]
  case setTargetIndividual =>
    refine F h (s.putTarget_frame b _ _ _) (fun a ha => ?_) (fun h => State.putTarget_wf b _ _ _ h)
    rw [State.putTarget, State.read_setField, State.read_setByte, State.read_setByte, if_neg (K ha 5 (by decide)), if_neg (K ha 4 (by decide)), if_neg (K ha 3 (by decide))]
  case setCommand =>
    refine F h rfl (fun a ha => ?_) (fun h => State.setByte_wf _ (State.setByte_wf _ h (by decide)) (by decide))
    rw [State.read_setField, State.read_setField, if_neg (K ha 7 (by decide)), if_neg (K ha 6 (by decide))]
  case set1ByteInt => exact V (by simp) h
  case set4ByteFloat => exact V (by simp) h
  case set14ByteText => exact V (by simp) h
  case setTime => exact V (by simp) h
  case set2ByteFloat f =>
    obtain ⟨h0, h1⟩ := command_done h
    rw [State.putFloat16] at h1
    split at h1
    · exact V (l := [_, _]) (by simp) (whenIdle_next.mpr ⟨h0, answer_next.mpr h1⟩)
    · refine G (k := s.choices + 2) (whenIdle_next.mpr ⟨h0, answer_next.mpr h1⟩) ?_ (fun a ha => ?_) (fun h => ?_)
      · generalize hv : s.putValue b 4 _ = v
        have := s.putValue_frame b 4 [Config.freeByte s.choices, Config.freeByte (s.choices + 1)]
        rw [hv] at this
        rw [this]; rfl
      · show (s.putValue b 4 _).mem.read a = _
        exact VR (by simp) a ha
      · exact State.putValue_wf _ _ _ h (by simp)

end Sys2Proof.Machine
end

