-- ==== Sys2Proof/Laws/Encoding.lean ====
section
/-! SUPPORT. Words as numbers and back. -/

namespace Sys2Proof

theorem length_leBytes (n w : Nat) : (leBytes n w).length = n := by
  induction n generalizing w with
  | zero => rfl
  | succ n ih => simp [leBytes, ih]

/-- The bytes of a number stand for it, up to how many bytes there are. -/
theorem ofLeBytes_leBytes (n w : Nat) : ofLeBytes (leBytes n w) = w % 256 ^ n := by
  induction n generalizing w with
  | zero => simp [leBytes, ofLeBytes, Nat.mod_one]
  | succ n ih =>
    have e : 256 ^ (n + 1) = 256 * 256 ^ n := by rw [Nat.pow_add_one, Nat.mul_comm]
    rw [leBytes, ofLeBytes, ih, BitVec.toNat_ofNat, e, Nat.mod_mul]

/-- OP stands in the low six bits of a command word. -/
theorem op_commandWord {op sel x : Nat} (h : op < 64) : ofLeBytes (commandWord op sel x) % 64 = op := by
  rw [commandWord, ofLeBytes_leBytes]
  omega

/-- A command word decodes to the command of its parts. -/
theorem decode_commandWord {op sel x : Nat} (ho : op < 64) (hs : sel < 2) (hx : x < 2 ^ 112) :
    decode .command (commandWord op sel x) = .ok (commandOf op (bufOfSel sel) x) := by
  have e : ofLeBytes (commandWord op sel x) = op + 256 * sel + 65536 * x := by
    rw [commandWord, ofLeBytes_leBytes]; omega
  have e1 : (op + 256 * sel + 65536 * x) % 64 = op := by omega
  have e2 : (op + 256 * sel + 65536 * x) / 256 % 2 = sel := by omega
  have e3 : (op + 256 * sel + 65536 * x) / 65536 = x := by omega
  have e4 : (op + 256 * sel + 65536 * x) / 64 % 4 = 0 := by omega
  have e5 : (op + 256 * sel + 65536 * x) / 512 % 128 = 0 := by omega
  have hl : (commandWord op sel x).length = 16 := length_leBytes _ _
  simp only [decode, hl, if_true, decodeCommand, e, e1, e2, e3, e4, e5, and_self]

theorem bufOfSel_selOfBuf (b : Buf) : bufOfSel (selOfBuf b) = b := by cases b <;> rfl

theorem selOfBuf_lt (b : Buf) : selOfBuf b < 2 := by cases b <;> decide

/-- A text is the text of its bits. -/
theorem textOperand_textBits (t : Vector Byte 14) : textOperand (textBits t) = t := by
  have h : ∀ k (hk : k < 14), (t[k]).toNat < 256 := fun k hk => (t[k]).isLt
  have h0 := h 0 (by decide); have h1 := h 1 (by decide); have h2 := h 2 (by decide); have h3 := h 3 (by decide)
  have h4 := h 4 (by decide); have h5 := h 5 (by decide); have h6 := h 6 (by decide); have h7 := h 7 (by decide)
  have h8 := h 8 (by decide); have h9 := h 9 (by decide); have h10 := h 10 (by decide); have h11 := h 11 (by decide)
  have h12 := h 12 (by decide); have h13 := h 13 (by decide)
  apply Vector.ext
  intro k hk
  apply BitVec.eq_of_toNat_eq
  interval_cases k <;>
    simp only [textOperand, textBits, Vector.getElem_mk, List.getElem_toArray, List.getElem_cons_zero,
      List.getElem_cons_succ, BitVec.toNat_ofNat] <;> omega

/-- Every word of the command port is a command. -/
theorem decode_command (op : BitVec 6) (sel : BitVec 1) (x : BitVec 112) :
    decode (Issued.command op sel x).space (Issued.command op sel x).bytes =
      .ok (commandOf op.toNat (bufOfSel sel.toNat) x.toNat) :=
  decode_commandWord op.isLt sel.isLt x.isLt

/-- The two bytes of an application command decode as its ten bits. -/
theorem decode_apci (w : BitVec 10) :
    decode (Issued.apci w).space (Issued.apci w).bytes = decodeApci w.toNat := by
  have h := w.isLt
  show (if (leBytes 2 w.toNat).length = 2 then decodeApci (ofLeBytes (leBytes 2 w.toNat)) else .error .wrongLength) = _
  rw [if_pos (length_leBytes 2 _), ofLeBytes_leBytes, Nat.mod_eq_of_lt (by omega)]

end Sys2Proof
end

