-- ==== Sys2Proof/Laws/Flags.lean ====
section
/-! SUPPORT. The boolean outcomes in the words the statements use. -/

namespace Sys2Proof.Machine

/-! ## Checksum -/

/-- The checksum as the XOR of the bytes before its own position. -/
theorem checksum_eq (s : State) (sel : Buf) : s.checksum sel = s.xorBelow sel (6 + s.payloadLength sel) := by
  rw [State.checksum, State.xorBelow, State.bytesFrom, List.foldl_map, State.checksumPos, Config.headerSize]
  simp

/-- One byte more. -/
theorem xorBelow_succ (s : State) (sel : Buf) (m : Nat) : s.xorBelow sel (m + 1) = s.xorBelow sel m ^^^ s.byte sel m := by
  simp [State.xorBelow, List.range_succ]

/-- The XOR reads only the bytes below its bound. -/
theorem xorBelow_congr {s t : State} {sel : Buf} {m : Nat} (h : ∀ k < m, t.byte sel k = s.byte sel k) :
    t.xorBelow sel m = s.xorBelow sel m := by
  induction m with
  | zero => rfl
  | succ m ih => rw [xorBelow_succ, xorBelow_succ, ih (fun k hk => h k (by omega)), h m (by omega)]

/-- The XOR with one byte changed. -/
theorem xorBelow_flip {s t : State} {sel : Buf} {m j : Nat} (d : Byte) (hj : j < m)
    (h : ∀ k < m, t.byte sel k = if k = j then s.byte sel k ^^^ d else s.byte sel k) :
    t.xorBelow sel m = s.xorBelow sel m ^^^ d := by
  induction m with
  | zero => omega
  | succ m ih =>
    rw [xorBelow_succ, xorBelow_succ, h m (by omega)]
    by_cases e : m = j
    · subst e
      rw [if_pos rfl, xorBelow_congr (s := s) (t := t) (fun k hk => by rw [h k (by omega), if_neg (by omega)]), ← BitVec.xor_assoc]
    · rw [if_neg e, ih (by omega) (fun k hk => h k (by omega)), BitVec.xor_assoc, BitVec.xor_comm d, BitVec.xor_assoc]

/-- The stored checksum is right exactly when the XOR of all bytes up to it, from 0xFF, is 0. -/
theorem verify_iff_xor {s : State} {sel : Buf} :
    s.byte sel (6 + s.payloadLength sel) = s.xorBelow sel (6 + s.payloadLength sel) ↔
    s.xorBelow sel (6 + s.payloadLength sel + 1) = 0#8 := by
  rw [xorBelow_succ]
  constructor
  · intro e; rw [e]; simp
  · intro e
    have := congrArg (s.xorBelow sel (6 + s.payloadLength sel) ^^^ ·) e
    simpa [← BitVec.xor_assoc] using this

/-! ## Session -/

/-- A group address by shifts. -/
theorem groupAddr_eq (main : BitVec 5) (middle : BitVec 3) (sub : Byte) :
    groupAddr main middle sub = (main.setWidth 16 <<< 11) ||| (middle.setWidth 16 <<< 8) ||| sub.setWidth 16 := by
  apply BitVec.eq_of_getLsbD_eq
  intro i hi
  simp only [groupAddr, BitVec.getLsbD_append, BitVec.getLsbD_or, BitVec.getLsbD_shiftLeft, BitVec.getLsbD_setWidth]
  interval_cases i <;> simp

/-- The test for a group is the existence of a valid entry. -/
theorem listensTo_iff (s : State) (g : BitVec 16) : s.listensTo g = true ↔ s.listens g := by
  rw [State.listensTo, State.listenSet, List.contains_iff_mem, List.mem_take_iff_getElem]
  constructor
  · rintro ⟨k, hk, e⟩
    simp at hk
    exact ⟨⟨k, hk.2⟩, hk.1, by simpa using e⟩
  · rintro ⟨k, hk, e⟩
    exact ⟨k.val, by simp; exact hk, by simpa using e⟩

/-- A command that answers a test answers 1 where it holds and 0 where it does not. -/
theorem flag_answer {s : State} {P : Prop} {b : Bool} (e : b = true ↔ P) {k : Out} (hk : k = .next (s.setResult (some (.flag (BitVec.ofBool b))))) :
    (P → k = .next (s.setResult (some (.flag 1#1)))) ∧ (¬ P → k = .next (s.setResult (some (.flag 0#1)))) := by
  subst hk
  constructor
  · intro h; rw [e.mpr h]; rfl
  · intro h
    have : b = false := by cases b <;> simp_all
    rw [this]; rfl

/-- The top bit. -/
theorem getBits_top (x : Byte) : getBits x 7 1 = 1#1 ↔ x.getLsbD 7 = true := by revert x; decide

/-- The interest function, in the words of 45_session_rx.md R230. -/
theorem interested_iff (s : State) (sel : Buf) : s.interested sel = true ↔ s.wants (s.byte sel 3) (s.byte sel 4) (s.byte sel 5) := by
  rw [State.interested, State.wants, State.word16, State.field]
  by_cases h : (s.byte sel 5).getLsbD 7 = true
  · rw [if_pos h, if_pos ((getBits_top _).mpr h)]
    simp only [Bool.or_eq_true, Bool.and_eq_true, listensTo_iff, beq_iff_eq]
  · rw [if_neg h, if_neg (fun q => h ((getBits_top _).mp q))]
    simp only [beq_iff_eq]

/-- The interest depends on the session registers alone. -/
theorem wants_congr {s t : State} (h1 : t.ownAddr = s.ownAddr) (h2 : t.listen = s.listen) (h3 : t.listenCount = s.listenCount) (h4 : t.listenBcast = s.listenBcast) (a b c : Byte) :
    t.wants a b c ↔ s.wants a b c := by
  simp only [State.wants, State.listens, h1, h2, h3, h4]

/-- A frame start, with the free bits forced to 1. -/
theorem isFrameStartByte_iff (b : Byte) : isFrameStartByte b = true ↔ b ||| 0x2C#8 = 0xBC#8 := by
  simp [isFrameStartByte, frameStartFree, frameStartPattern]

/-- A received telegram is numbered exactly when bit 6 of byte 6 is 1. -/
theorem numbered_iff (s : State) : s.numbered = true ↔ s.byte .incoming 6 &&& 0x40#8 ≠ 0x00#8 := by
  rw [State.numbered, State.commType, State.field]
  generalize s.byte .incoming 6 = x
  revert x; decide

/-- A Boolean as one bit. -/
theorem ofBool_iff {b : Bool} : BitVec.ofBool b = 1#1 ↔ b = true := by cases b <;> decide

end Sys2Proof.Machine
end

