-- ==== Sys2Proof/Laws/Float16.lean ====
section
/-! SUPPORT. The 2-byte float's exponent, rounding, bytes and value in closed form. -/

namespace Sys2Proof.Machine

/-- The halvings stop at the least exponent whose range holds the magnitude. -/
theorem halvings_eq (n : Nat) {E : Nat} (hE : n ≤ 2047 * 2 ^ (149 + E)) (hl : ∀ e, e < E → 2047 * 2 ^ (149 + e) < n) :
    ∀ fuel e, e ≤ E → E ≤ e + fuel → halvings n fuel e = E := by
  intro fuel
  induction fuel with
  | zero => intro e h1 h2; rw [halvings]; omega
  | succ k ih =>
    intro e h1 h2
    rw [halvings]
    by_cases h : e = E
    · subst h; rw [if_neg (by omega)]
    · rw [if_pos (hl e (by omega)), ih (e + 1) (by omega) (by omega)]

/-- A magnitude out of every range takes all the halvings. -/
theorem halvings_over (n : Nat) (hl : ∀ e, e ≤ 15 → 2047 * 2 ^ (149 + e) < n) :
    ∀ fuel e, e + fuel ≤ 15 → halvings n fuel e = e + fuel := by
  intro fuel
  induction fuel with
  | zero => intro e _; rfl
  | succ k ih =>
    intro e h
    rw [halvings, if_pos (hl e (by omega)), ih (e + 1) (by omega)]
    omega

/-- Rounding half away from zero, of magnitudes, is one division. -/
theorem roundDiv_away (n : Nat) {d : Nat} (hd : 0 < d) : roundDiv .away n d = (2 * n + d) / (2 * d) := by
  have h := Nat.div_add_mod n d
  have hr := Nat.mod_lt n hd
  set q := n / d
  set r := n % d
  symm
  unfold roundDiv
  rw [show n / d = q from rfl, show n % d = r from rfl]
  split
  · apply Nat.div_eq_of_lt_le <;> nlinarith
  · have : d ≤ 2 * r := by omega
    split
    · apply Nat.div_eq_of_lt_le <;> nlinarith
    · apply Nat.div_eq_of_lt_le <;> nlinarith

/-- The sign bit. -/
theorem b32Sign_eq (f : BitVec 32) : b32Sign f = 1#1 ↔ f.getLsbD 31 = true := by
  rw [b32Sign]
  constructor
  · intro h
    have := congrArg (fun x => x.getLsbD 0) h
    simpa using this
  · intro h
    ext i hi
    have : i = 0 := by omega
    subst this
    simpa using h

/-- A mantissa magnitude in range is at most 2047. -/
theorem mantissa_le {n E q : Nat} (hn : n ≤ 2047 * 2 ^ (149 + E)) (hq : q = (2 * n + 2 ^ (149 + E)) / (2 * 2 ^ (149 + E))) : q ≤ 2047 := by
  subst hq
  have : 0 < 2 ^ (149 + E) := by positivity
  generalize 2 ^ (149 + E) = d at *
  rw [Nat.lt_succ_iff.symm, Nat.div_lt_iff_lt_mul (by omega)]
  omega

/-- The encoder in range. -/
theorem float16Encode_eq {f : BitVec 32} {E q : Nat} (hf : b32Finite f = true) (hE : E ≤ 15)
    (hn : 100 * b32Magnitude f ≤ 2047 * 2 ^ (149 + E))
    (hl : ∀ e, e < E → 2047 * 2 ^ (149 + e) < 100 * b32Magnitude f)
    (hq : q = (2 * (100 * b32Magnitude f) + 2 ^ (149 + E)) / (2 * 2 ^ (149 + E))) :
    float16Encode float16Ties float16Scale f = some (packFloat16 (b32Sign f) E q) := by
  have e : exponentOf (100 * b32Magnitude f) = E := halvings_eq _ hn hl 15 0 (by omega) (by omega)
  rw [float16Encode]
  simp only [float16Scale, scaledMagnitude, float16Ties, e, hf, mantissaOf]
  rw [roundDiv_away _ (by positivity), ← hq]
  have : ¬ 2047 * 2 ^ (149 + E) < 100 * b32Magnitude f := by omega
  simp [this]

/-- What the encoder writes. -/
theorem read_putValue_two (s : State) (sel : Buf) (b8 b9 : Byte) (a : Nat) :
    (s.putValue sel 4 [b8, b9]).mem.read a =
      if a = addr sel 5 then (s.byte sel 5 &&& 0xF0#8) ||| 0x03#8
      else if a = addr sel 8 then b8 else if a = addr sel 9 then b9 else s.mem.read a := by
  rw [read_putValue, putBits_length _ _ 3#4 0x03#8 rfl rfl]
  simp only [addr_eq sel 5, addr_eq sel 8, addr_eq sel 9, List.length_cons, List.length_nil]
  split_ifs with h1 h2 h3 h4 h5 h6 <;> first | omega | rfl | skip
  · have : a - (addr sel 0 + 8) = 0 := by omega
    rw [this]; rfl
  · have : a - (addr sel 0 + 8) = 1 := by omega
    rw [this]; rfl

/-- Bytes 8 and 9 of a signed mantissa. -/
theorem packFloat16_eq (sg : BitVec 1) (E q M : Nat) (hq : q ≤ 2047) (hM : M = if sg = 1#1 ∧ q ≠ 0 then 4096 - q else q) :
    packFloat16 sg E q = (BitVec.ofNat 8 (M / 2048 * 128 + E * 8 + M % 2048 / 256), BitVec.ofNat 8 (M % 256)) := by
  rw [packFloat16]
  by_cases h : sg = 1#1 ∧ q ≠ 0
  · rw [if_pos h] at hM
    simp only [if_pos h]
    have e1 : M / 2048 = 1 := by omega
    have e2 : M % 2048 = 2048 - q := by omega
    rw [e1, e2]
    congr 2
    · omega
    · omega
  · rw [if_neg h] at hM
    simp only [if_neg h]
    subst hM
    have e1 : M / 2048 = 0 := by omega
    have e2 : M % 2048 = M := by omega
    rw [e1, e2]
    congr 2
    omega

/-- The mantissa read from two bytes. -/
theorem float16Mantissa_eq (hi lo : Byte) : float16Mantissa hi lo = (((hi.toNat % 8 * 256 + lo.toNat : Nat) - (2048 * (hi.toNat / 128) : Nat) : Int)) := by
  have e1 : (hi.extractLsb' 0 3 ++ lo).toNat = hi.toNat % 8 * 256 + lo.toNat := by
    rw [BitVec.toNat_append, Nat.shiftLeft_eq]
    have : (hi.extractLsb' 0 3).toNat = hi.toNat % 8 := by simp
    rw [this, ← Nat.shiftLeft_eq, ← Nat.shiftLeft_add_eq_or_of_lt lo.isLt, Nat.shiftLeft_eq]
  have e2 : (hi.extractLsb' 7 1).toNat = hi.toNat / 128 := by
    have := hi.isLt
    simp [Nat.shiftRight_eq_div_pow]; omega
  rw [float16Mantissa, e1, e2]; push_cast; rfl

/-- The exponent read from a byte. -/
theorem float16Exponent_eq (hi : Byte) : float16Exponent hi = hi.toNat / 8 % 16 := by
  rw [float16Exponent]; simp [Nat.shiftRight_eq_div_pow]

end Sys2Proof.Machine
end

