-- ==== Sys2Proof/Laws/PerInstr.lean ====
section
/-! SUPPORT. The family EncodedWord: the word of every instruction is as long as a word of its space is and has the fixed
bits that spec/opcode_table.json gives its row. -/

namespace Sys2Proof.Laws

/-- How many bytes a word of a space has. -/
def wordBytes : Space → Nat
  | .command => 16
  | .receive | .transmit => 1
  | .apci => 2

/-- Mask and match of the row, as spec/opcode_table.json has them. A row of the table's apci4 format stands in bits 9 to 6 of
the application-control field (30_encoding.md R78), so its two numbers are written shifted up by 6. -/
def tableRow : Instr → Nat × Nat
  | .clear _ => (0x3F, 0x00)
  | .getByte _ _ => (0x3F, 0x01)
  | .setByte _ _ _ => (0x3F, 0x02)
  | .getTotalLength _ => (0x3F, 0x03)
  | .setPayloadLength _ _ => (0x3F, 0x04)
  | .getPayloadLength _ => (0x3F, 0x05)
  | .setRepeated _ _ => (0x3F, 0x06)
  | .isRepeated _ => (0x3F, 0x07)
  | .setPriority _ _ => (0x3F, 0x08)
  | .getPriority _ => (0x3F, 0x09)
  | .setSourceAddress _ _ _ _ => (0x3F, 0x0A)
  | .getSourceAddress _ => (0x3F, 0x0B)
  | .setTargetGroup _ _ _ _ => (0x3F, 0x0C)
  | .getTargetGroup _ => (0x3F, 0x0D)
  | .setTargetIndividual _ _ _ _ => (0x3F, 0x0E)
  | .getTargetIndividual _ => (0x3F, 0x0F)
  | .setTargetType _ _ => (0x3F, 0x10)
  | .isTargetGroup _ => (0x3F, 0x11)
  | .setRoutingCounter _ _ => (0x3F, 0x12)
  | .getRoutingCounter _ => (0x3F, 0x13)
  | .setCommType _ _ => (0x3F, 0x14)
  | .getCommType _ => (0x3F, 0x15)
  | .setSequenceNumber _ _ => (0x3F, 0x16)
  | .getSequenceNumber _ => (0x3F, 0x17)
  | .setControlData _ _ => (0x3F, 0x18)
  | .getControlData _ => (0x3F, 0x19)
  | .setCommand _ _ => (0x3F, 0x1A)
  | .getCommand _ => (0x3F, 0x1B)
  | .setExtendedCommand _ _ => (0x3F, 0x1C)
  | .getExtendedCommand _ => (0x3F, 0x1D)
  | .setFirstDataByte _ _ => (0x3F, 0x1E)
  | .getFirstDataByte _ => (0x3F, 0x1F)
  | .decodeAppCommand _ => (0x3F, 0x20)
  | .calcChecksum _ => (0x3F, 0x21)
  | .createChecksum _ => (0x3F, 0x22)
  | .verifyChecksum _ => (0x3F, 0x23)
  | .getChecksum _ => (0x3F, 0x24)
  | .getBool _ => (0x3F, 0x25)
  | .set1ByteInt _ _ => (0x3F, 0x26)
  | .get1ByteInt _ => (0x3F, 0x27)
  | .set2ByteFloat _ _ => (0x3F, 0x28)
  | .get2ByteFloat _ => (0x3F, 0x29)
  | .set4ByteFloat _ _ => (0x3F, 0x2A)
  | .get4ByteFloat _ => (0x3F, 0x2B)
  | .set14ByteText _ _ => (0x3F, 0x2C)
  | .get14ByteText _ => (0x3F, 0x2D)
  | .setTime _ _ _ _ _ => (0x3F, 0x2E)
  | .getTime _ => (0x3F, 0x2F)
  | .isFrameStart _ => (0x3F, 0x30)
  | .classifyByte _ => (0x3F, 0x31)
  | .readByteTimeout => (0x3F, 0x32)
  | .sendFrame _ => (0x3F, 0x33)
  | .sendAck => (0x3F, 0x34)
  | .sendNotAddressed => (0x3F, 0x35)
  | .pollEvent => (0x3F, 0x36)
  | .getRxStatus => (0x3F, 0x37)
  | .setOwnAddress _ _ _ => (0x3F, 0x38)
  | .getOwnAddress => (0x3F, 0x39)
  | .addListenGroup _ _ _ => (0x3F, 0x3A)
  | .isListeningGroup _ _ _ => (0x3F, 0x3B)
  | .getListenCount => (0x3F, 0x3C)
  | .setListenBroadcast _ => (0x3F, 0x3D)
  | .getListenBroadcast => (0x3F, 0x3E)
  | .isOfInterest _ => (0x3F, 0x3F)
  | .rxFrameStart _ _ => (0xD3, 0x90)
  | .rxResetIndication => (0xFF, 0x03)
  | .rxPositiveConfirmation => (0xFF, 0x8B)
  | .rxNegativeConfirmation => (0xFF, 0x0B)
  | .txTagContinue _ => (0xC0, 0x80)
  | .txTagEnd _ => (0xC0, 0x40)
  | .txAck => (0xFF, 0x11)
  | .txNotAddressed => (0xFF, 0x10)
  | .apciGroupRead _ => (0xF * 64, 0x0 * 64)
  | .apciGroupResponse _ => (0xF * 64, 0x1 * 64)
  | .apciGroupWrite _ => (0xF * 64, 0x2 * 64)
  | .apciIndividualAddrWrite _ => (0xF * 64, 0x3 * 64)
  | .apciIndividualAddrRead _ => (0xF * 64, 0x4 * 64)
  | .apciIndividualAddrResponse _ => (0xF * 64, 0x5 * 64)
  | .apciMemoryRead _ => (0xF * 64, 0x8 * 64)
  | .apciMemoryResponse _ => (0xF * 64, 0x9 * 64)
  | .apciMemoryWrite _ => (0xF * 64, 0xA * 64)
  | .apciDeviceDescriptorRead _ => (0xF * 64, 0xC * 64)
  | .apciDeviceDescriptorResponse _ => (0xF * 64, 0xD * 64)
  | .apciRestart _ => (0xF * 64, 0xE * 64)
  | .apciAuthorizeRequest => (0x3FF, 0x3D1)
  | .apciAuthorizeResponse => (0x3FF, 0x3D2)
  | .apciPropertyRead => (0x3FF, 0x3D5)
  | .apciPropertyResponse => (0x3FF, 0x3D6)
  | .apciPropertyWrite => (0x3FF, 0x3D7)

/-- The fixed bits of a word. -/
def EncodedWord.Statement (i : Instr) : Prop :=
  (encode i).length = wordBytes i.space ∧ ofLeBytes (encode i) &&& (tableRow i).1 = (tableRow i).2

/-- A command word has its OP in the low six bits. -/
theorem commandWord_fixed {op sel x : Nat} (h : op < 64) :
    (commandWord op sel x).length = 16 ∧ ofLeBytes (commandWord op sel x) &&& 0x3F = op :=
  ⟨length_leBytes _ _, (Nat.and_two_pow_sub_one_eq_mod _ 6).trans (op_commandWord h)⟩

/-- A 4-bit application command has its code in bits 9 to 6, whatever its six data bits are. -/
theorem apciWord_fixed : ∀ (c : BitVec 4) (d : BitVec 6),
    (apciWord c.toNat d.toNat).length = 2 ∧ ofLeBytes (apciWord c.toNat d.toNat) &&& 0xF * 64 = c.toNat * 64 := by
  decide

theorem EncodedWord.clear (sel : Buf) : EncodedWord.Statement (.clear sel) := commandWord_fixed (by decide)
theorem EncodedWord.getByte (sel : Buf) (idx : BitVec 5) : EncodedWord.Statement (.getByte sel idx) :=
  commandWord_fixed (by decide)
theorem EncodedWord.setByte (sel : Buf) (idx : BitVec 5) (val : Byte) : EncodedWord.Statement (.setByte sel idx val) :=
  commandWord_fixed (by decide)
theorem EncodedWord.getTotalLength (sel : Buf) : EncodedWord.Statement (.getTotalLength sel) :=
  commandWord_fixed (by decide)
theorem EncodedWord.setPayloadLength (sel : Buf) (n : BitVec 5) : EncodedWord.Statement (.setPayloadLength sel n) :=
  commandWord_fixed (by decide)
theorem EncodedWord.getPayloadLength (sel : Buf) : EncodedWord.Statement (.getPayloadLength sel) :=
  commandWord_fixed (by decide)
theorem EncodedWord.setRepeated (sel : Buf) (r : BitVec 1) : EncodedWord.Statement (.setRepeated sel r) :=
  commandWord_fixed (by decide)
theorem EncodedWord.isRepeated (sel : Buf) : EncodedWord.Statement (.isRepeated sel) := commandWord_fixed (by decide)
theorem EncodedWord.setPriority (sel : Buf) (p : BitVec 2) : EncodedWord.Statement (.setPriority sel p) :=
  commandWord_fixed (by decide)
theorem EncodedWord.getPriority (sel : Buf) : EncodedWord.Statement (.getPriority sel) :=
  commandWord_fixed (by decide)
theorem EncodedWord.setSourceAddress (sel : Buf) (area line : BitVec 4) (member : Byte) : EncodedWord.Statement (.setSourceAddress sel area line member) :=
  commandWord_fixed (by decide)
theorem EncodedWord.getSourceAddress (sel : Buf) : EncodedWord.Statement (.getSourceAddress sel) :=
  commandWord_fixed (by decide)
theorem EncodedWord.setTargetGroup (sel : Buf) (main : BitVec 5) (middle : BitVec 3) (sub : Byte) : EncodedWord.Statement (.setTargetGroup sel main middle sub) :=
  commandWord_fixed (by decide)
theorem EncodedWord.getTargetGroup (sel : Buf) : EncodedWord.Statement (.getTargetGroup sel) :=
  commandWord_fixed (by decide)
theorem EncodedWord.setTargetIndividual (sel : Buf) (area line : BitVec 4) (member : Byte) : EncodedWord.Statement (.setTargetIndividual sel area line member) :=
  commandWord_fixed (by decide)
theorem EncodedWord.getTargetIndividual (sel : Buf) : EncodedWord.Statement (.getTargetIndividual sel) :=
  commandWord_fixed (by decide)
theorem EncodedWord.setTargetType (sel : Buf) (g : BitVec 1) : EncodedWord.Statement (.setTargetType sel g) :=
  commandWord_fixed (by decide)
theorem EncodedWord.isTargetGroup (sel : Buf) : EncodedWord.Statement (.isTargetGroup sel) :=
  commandWord_fixed (by decide)
theorem EncodedWord.setRoutingCounter (sel : Buf) (rc : BitVec 3) : EncodedWord.Statement (.setRoutingCounter sel rc) :=
  commandWord_fixed (by decide)
theorem EncodedWord.getRoutingCounter (sel : Buf) : EncodedWord.Statement (.getRoutingCounter sel) :=
  commandWord_fixed (by decide)
theorem EncodedWord.setCommType (sel : Buf) (ct : BitVec 2) : EncodedWord.Statement (.setCommType sel ct) :=
  commandWord_fixed (by decide)
theorem EncodedWord.getCommType (sel : Buf) : EncodedWord.Statement (.getCommType sel) :=
  commandWord_fixed (by decide)
theorem EncodedWord.setSequenceNumber (sel : Buf) (sn : BitVec 4) : EncodedWord.Statement (.setSequenceNumber sel sn) :=
  commandWord_fixed (by decide)
theorem EncodedWord.getSequenceNumber (sel : Buf) : EncodedWord.Statement (.getSequenceNumber sel) :=
  commandWord_fixed (by decide)
theorem EncodedWord.setControlData (sel : Buf) (cd : BitVec 2) : EncodedWord.Statement (.setControlData sel cd) :=
  commandWord_fixed (by decide)
theorem EncodedWord.getControlData (sel : Buf) : EncodedWord.Statement (.getControlData sel) :=
  commandWord_fixed (by decide)
theorem EncodedWord.setCommand (sel : Buf) (c : BitVec 4) : EncodedWord.Statement (.setCommand sel c) :=
  commandWord_fixed (by decide)
theorem EncodedWord.getCommand (sel : Buf) : EncodedWord.Statement (.getCommand sel) := commandWord_fixed (by decide)
theorem EncodedWord.setExtendedCommand (sel : Buf) (x : BitVec 6) : EncodedWord.Statement (.setExtendedCommand sel x) :=
  commandWord_fixed (by decide)
theorem EncodedWord.getExtendedCommand (sel : Buf) : EncodedWord.Statement (.getExtendedCommand sel) :=
  commandWord_fixed (by decide)
theorem EncodedWord.setFirstDataByte (sel : Buf) (d : BitVec 6) : EncodedWord.Statement (.setFirstDataByte sel d) :=
  commandWord_fixed (by decide)
theorem EncodedWord.getFirstDataByte (sel : Buf) : EncodedWord.Statement (.getFirstDataByte sel) :=
  commandWord_fixed (by decide)
theorem EncodedWord.decodeAppCommand (sel : Buf) : EncodedWord.Statement (.decodeAppCommand sel) :=
  commandWord_fixed (by decide)
theorem EncodedWord.calcChecksum (sel : Buf) : EncodedWord.Statement (.calcChecksum sel) :=
  commandWord_fixed (by decide)
theorem EncodedWord.createChecksum (sel : Buf) : EncodedWord.Statement (.createChecksum sel) :=
  commandWord_fixed (by decide)
theorem EncodedWord.verifyChecksum (sel : Buf) : EncodedWord.Statement (.verifyChecksum sel) :=
  commandWord_fixed (by decide)
theorem EncodedWord.getChecksum (sel : Buf) : EncodedWord.Statement (.getChecksum sel) :=
  commandWord_fixed (by decide)
theorem EncodedWord.getBool (sel : Buf) : EncodedWord.Statement (.getBool sel) := commandWord_fixed (by decide)
theorem EncodedWord.set1ByteInt (sel : Buf) (v : Byte) : EncodedWord.Statement (.set1ByteInt sel v) :=
  commandWord_fixed (by decide)
theorem EncodedWord.get1ByteInt (sel : Buf) : EncodedWord.Statement (.get1ByteInt sel) :=
  commandWord_fixed (by decide)
theorem EncodedWord.set2ByteFloat (sel : Buf) (f : BitVec 32) : EncodedWord.Statement (.set2ByteFloat sel f) :=
  commandWord_fixed (by decide)
theorem EncodedWord.get2ByteFloat (sel : Buf) : EncodedWord.Statement (.get2ByteFloat sel) :=
  commandWord_fixed (by decide)
theorem EncodedWord.set4ByteFloat (sel : Buf) (f : BitVec 32) : EncodedWord.Statement (.set4ByteFloat sel f) :=
  commandWord_fixed (by decide)
theorem EncodedWord.get4ByteFloat (sel : Buf) : EncodedWord.Statement (.get4ByteFloat sel) :=
  commandWord_fixed (by decide)
theorem EncodedWord.set14ByteText (sel : Buf) (t : Vector Byte 14) : EncodedWord.Statement (.set14ByteText sel t) :=
  commandWord_fixed (by decide)
theorem EncodedWord.get14ByteText (sel : Buf) : EncodedWord.Statement (.get14ByteText sel) :=
  commandWord_fixed (by decide)
theorem EncodedWord.setTime (sel : Buf) (wd : BitVec 3) (h : BitVec 5) (mi sec : BitVec 6) : EncodedWord.Statement (.setTime sel wd h mi sec) :=
  commandWord_fixed (by decide)
theorem EncodedWord.getTime (sel : Buf) : EncodedWord.Statement (.getTime sel) := commandWord_fixed (by decide)
theorem EncodedWord.isFrameStart (b : Byte) : EncodedWord.Statement (.isFrameStart b) := commandWord_fixed (by decide)
theorem EncodedWord.classifyByte (b : Byte) : EncodedWord.Statement (.classifyByte b) := commandWord_fixed (by decide)
theorem EncodedWord.readByteTimeout : EncodedWord.Statement (.readByteTimeout) := commandWord_fixed (by decide)
theorem EncodedWord.sendFrame (sel : Buf) : EncodedWord.Statement (.sendFrame sel) := commandWord_fixed (by decide)
theorem EncodedWord.sendAck : EncodedWord.Statement (.sendAck) := commandWord_fixed (by decide)
theorem EncodedWord.sendNotAddressed : EncodedWord.Statement (.sendNotAddressed) := commandWord_fixed (by decide)
theorem EncodedWord.pollEvent : EncodedWord.Statement (.pollEvent) := commandWord_fixed (by decide)
theorem EncodedWord.getRxStatus : EncodedWord.Statement (.getRxStatus) := commandWord_fixed (by decide)
theorem EncodedWord.setOwnAddress (area line : BitVec 4) (member : Byte) : EncodedWord.Statement (.setOwnAddress area line member) :=
  commandWord_fixed (by decide)
theorem EncodedWord.getOwnAddress : EncodedWord.Statement (.getOwnAddress) := commandWord_fixed (by decide)
theorem EncodedWord.addListenGroup (main : BitVec 5) (middle : BitVec 3) (sub : Byte) : EncodedWord.Statement (.addListenGroup main middle sub) :=
  commandWord_fixed (by decide)
theorem EncodedWord.isListeningGroup (main : BitVec 5) (middle : BitVec 3) (sub : Byte) : EncodedWord.Statement (.isListeningGroup main middle sub) :=
  commandWord_fixed (by decide)
theorem EncodedWord.getListenCount : EncodedWord.Statement (.getListenCount) := commandWord_fixed (by decide)
theorem EncodedWord.setListenBroadcast (b : BitVec 1) : EncodedWord.Statement (.setListenBroadcast b) :=
  commandWord_fixed (by decide)
theorem EncodedWord.getListenBroadcast : EncodedWord.Statement (.getListenBroadcast) := commandWord_fixed (by decide)
theorem EncodedWord.isOfInterest (sel : Buf) : EncodedWord.Statement (.isOfInterest sel) :=
  commandWord_fixed (by decide)
theorem EncodedWord.rxFrameStart (notRepeated : BitVec 1) (priority : BitVec 2) : EncodedWord.Statement (.rxFrameStart notRepeated priority) :=
  by revert notRepeated priority; unfold EncodedWord.Statement; decide
theorem EncodedWord.rxResetIndication : EncodedWord.Statement (.rxResetIndication) := ⟨by decide, by decide⟩
theorem EncodedWord.rxPositiveConfirmation : EncodedWord.Statement (.rxPositiveConfirmation) := ⟨by decide, by decide⟩
theorem EncodedWord.rxNegativeConfirmation : EncodedWord.Statement (.rxNegativeConfirmation) := ⟨by decide, by decide⟩
theorem EncodedWord.txTagContinue (i : BitVec 6) : EncodedWord.Statement (.txTagContinue i) :=
  by revert i; unfold EncodedWord.Statement; decide
theorem EncodedWord.txTagEnd (i : BitVec 6) : EncodedWord.Statement (.txTagEnd i) :=
  by revert i; unfold EncodedWord.Statement; decide
theorem EncodedWord.txAck : EncodedWord.Statement (.txAck) := ⟨by decide, by decide⟩
theorem EncodedWord.txNotAddressed : EncodedWord.Statement (.txNotAddressed) := ⟨by decide, by decide⟩
theorem EncodedWord.apciGroupRead (data6 : BitVec 6) : EncodedWord.Statement (.apciGroupRead data6) :=
  apciWord_fixed 0#4 data6
theorem EncodedWord.apciGroupResponse (data6 : BitVec 6) : EncodedWord.Statement (.apciGroupResponse data6) :=
  apciWord_fixed 1#4 data6
theorem EncodedWord.apciGroupWrite (data6 : BitVec 6) : EncodedWord.Statement (.apciGroupWrite data6) :=
  apciWord_fixed 2#4 data6
theorem EncodedWord.apciIndividualAddrWrite (data6 : BitVec 6) : EncodedWord.Statement (.apciIndividualAddrWrite data6) :=
  apciWord_fixed 3#4 data6
theorem EncodedWord.apciIndividualAddrRead (data6 : BitVec 6) : EncodedWord.Statement (.apciIndividualAddrRead data6) :=
  apciWord_fixed 4#4 data6
theorem EncodedWord.apciIndividualAddrResponse (data6 : BitVec 6) : EncodedWord.Statement (.apciIndividualAddrResponse data6) :=
  apciWord_fixed 5#4 data6
theorem EncodedWord.apciMemoryRead (data6 : BitVec 6) : EncodedWord.Statement (.apciMemoryRead data6) :=
  apciWord_fixed 8#4 data6
theorem EncodedWord.apciMemoryResponse (data6 : BitVec 6) : EncodedWord.Statement (.apciMemoryResponse data6) :=
  apciWord_fixed 9#4 data6
theorem EncodedWord.apciMemoryWrite (data6 : BitVec 6) : EncodedWord.Statement (.apciMemoryWrite data6) :=
  apciWord_fixed 10#4 data6
theorem EncodedWord.apciDeviceDescriptorRead (data6 : BitVec 6) : EncodedWord.Statement (.apciDeviceDescriptorRead data6) :=
  apciWord_fixed 12#4 data6
theorem EncodedWord.apciDeviceDescriptorResponse (data6 : BitVec 6) : EncodedWord.Statement (.apciDeviceDescriptorResponse data6) :=
  apciWord_fixed 13#4 data6
theorem EncodedWord.apciRestart (data6 : BitVec 6) : EncodedWord.Statement (.apciRestart data6) :=
  apciWord_fixed 14#4 data6
theorem EncodedWord.apciAuthorizeRequest : EncodedWord.Statement (.apciAuthorizeRequest) := ⟨by decide, by decide⟩
theorem EncodedWord.apciAuthorizeResponse : EncodedWord.Statement (.apciAuthorizeResponse) := ⟨by decide, by decide⟩
theorem EncodedWord.apciPropertyRead : EncodedWord.Statement (.apciPropertyRead) := ⟨by decide, by decide⟩
theorem EncodedWord.apciPropertyResponse : EncodedWord.Statement (.apciPropertyResponse) := ⟨by decide, by decide⟩
theorem EncodedWord.apciPropertyWrite : EncodedWord.Statement (.apciPropertyWrite) := ⟨by decide, by decide⟩

end Sys2Proof.Laws
end

