-- ==== Sys2Proof/Laws/Run.lean ====
section
/-! SUPPORT. One step by the turn it takes, and runs of several steps. -/

namespace Sys2Proof.Machine

theorem step_nil {s : State} (h : s.env = []) : step s = .next s.blockStep := by
  simp [step, takeTurn, h]

theorem step_block {s : State} {r : List Turn} (h : s.env = .block :: r) : step s = .next (s.setEnv r).blockStep := by
  simp [step, takeTurn, h]

theorem step_deliver {s : State} {b : Byte} {r : List Turn} (h : s.env = .deliver b :: r) :
    step s = .next ((s.setEnv r).chanDeliver b) := by
  simp [step, takeTurn, h]

theorem step_timeout {s : State} {r : List Turn} (h : s.env = .timeout :: r) :
    step s = .next (s.setEnv r).chanTimeout := by
  simp [step, takeTurn, h]

theorem step_issue {s : State} {w : Issued} {r : List Turn} (h : s.env = .issue w :: r) :
    step s = runWord w (s.setEnv r) := by
  simp [step, takeTurn, h]

/-- A word that decodes runs as its instruction. -/
theorem runWord_of_decode {w : Issued} {i : Instr} (h : decode w.space w.bytes = .ok i) (s : State) :
    runWord w s = exec i s := by
  cases w with
  | command op sel x => rw [decode_command] at h; cases h; rfl
  | receive b => have h' : decodeReceive b = .ok i := h; simp only [runWord, h']
  | transmit b => have h' : decodeTransmit b = .ok i := h; simp only [runWord, h']
  | apci a => rw [decode_apci] at h; simp only [runWord, h]

/-- A word of no row moves its byte, or is an unknown application command. -/
theorem runWord_of_error {w : Issued} {e : DecodeError} (h : decode w.space w.bytes = .error e) (s : State) :
    (∃ b, w = .receive b ∧ runWord w s = .next (s.chanDeliver b)) ∨
    (∃ b, w = .transmit b ∧ runWord w s = .next (s.chanWrite b)) ∨
    (∃ a, w = .apci a ∧ runWord w s = nameApp .unknown s) := by
  cases w with
  | command op sel x => rw [decode_command] at h; cases h
  | receive b => have h' : decodeReceive b = .error e := h; exact .inl ⟨b, rfl, by simp only [runWord, h']⟩
  | transmit b => have h' : decodeTransmit b = .error e := h; exact .inr (.inl ⟨b, rfl, by simp only [runWord, h']⟩)
  | apci a => rw [decode_apci] at h; exact .inr (.inr ⟨a, rfl, by simp only [runWord, h]⟩)

/-- All a step that answers a next state can be. -/
theorem step_cases {s t : State} (h : step s = .next t) :
    (s.env = [] ∧ t = s.blockStep) ∨
    (∃ r, s.env = .block :: r ∧ t = (s.setEnv r).blockStep) ∨
    (∃ b r, s.env = .deliver b :: r ∧ t = (s.setEnv r).chanDeliver b) ∨
    (∃ r, s.env = .timeout :: r ∧ t = (s.setEnv r).chanTimeout) ∨
    (∃ w r, s.env = .issue w :: r ∧
      ((∃ i, decode w.space w.bytes = .ok i ∧ exec i (s.setEnv r) = .next t) ∨
        (∃ b, w = .receive b ∧ t = (s.setEnv r).chanDeliver b) ∨ (∃ b, w = .transmit b ∧ t = (s.setEnv r).chanWrite b) ∨
        (s.seq = .idle ∧ t = (s.setEnv r).setResult (some (.code5 0#5))))) := by
  match he : s.env with
  | [] => rw [step_nil he] at h; cases h; exact .inl ⟨rfl, rfl⟩
  | .block :: r => rw [step_block he] at h; cases h; exact .inr (.inl ⟨r, rfl, rfl⟩)
  | .deliver b :: r => rw [step_deliver he] at h; cases h; exact .inr (.inr (.inl ⟨b, r, rfl, rfl⟩))
  | .timeout :: r => rw [step_timeout he] at h; cases h; exact .inr (.inr (.inr (.inl ⟨r, rfl, rfl⟩)))
  | .issue w :: r =>
    rw [step_issue he] at h
    refine .inr (.inr (.inr (.inr ⟨w, r, rfl, ?_⟩)))
    match hd : decode w.space w.bytes with
    | .ok i => rw [runWord_of_decode hd] at h; exact .inl ⟨i, rfl, h⟩
    | .error e =>
      obtain ⟨b, hw, hr⟩ | ⟨b, hw, hr⟩ | ⟨a, hw, hr⟩ := runWord_of_error hd (s.setEnv r)
      · rw [hr] at h; cases h; exact .inr (.inl ⟨b, hw, rfl⟩)
      · rw [hr] at h; cases h; exact .inr (.inr (.inl ⟨b, hw, rfl⟩))
      · rw [hr, nameApp, whenIdle_next, answer_next] at h
        exact .inr (.inr (.inr ⟨h.1, h.2⟩))

theorem runs_zero (s : State) : runs 0 s = .next s := rfl

theorem runs_succ {s t : State} {k : Nat} (h : step s = .next t) : runs (k + 1) s = runs k t := by
  have h' : Sys2Proof.core.step s = .next t := h
  simp only [runs, Host.Core.run, h']
  rfl

/-- A run is cut where it is convenient. -/
theorem runs_add {s t : State} {j : Nat} (k : Nat) (h : runs j s = .next t) : runs (j + k) s = runs k t := by
  induction j generalizing s with
  | zero => cases h; rw [Nat.zero_add]
  | succ j ih =>
    match hs : step s with
    | .next u =>
      rw [runs_succ hs] at h
      rw [Nat.add_right_comm, runs_succ hs, ih h]
    | .refused e =>
      exfalso
      have e' : runs (j + 1) s = .refused e := by
        have h' : Sys2Proof.core.step s = .refused e := hs
        simp only [runs, Host.Core.run, h']
        rfl
      rw [e'] at h; cases h

/-! ## Transmission (44_framer.md R202) -/

/-- Byte `j` of the `2T` bytes of a transmission. -/
def State.wireByte (s : State) (sel : Buf) (j : Nat) : Byte :=
  if j % 2 = 0 then sendTag (j / 2) (s.totalLength sel) else s.byte sel (j / 2)

/-- SEQ after `j` bytes of a transmission. -/
def State.sendPosition (s : State) (sel : Buf) (c : Caller) (j : Nat) : Seq :=
  if j < 2 * s.totalLength sel then .tx sel (j / 2) (if j % 2 = 0 then .tag else .data) c else .conf c

theorem sendTag_eq (i T : Nat) (h : T ≤ 23) (hi : i < T) : sendTag i T =
    if i + 1 = T then 0x40#8 ||| BitVec.ofNat 8 i else 0x80#8 ||| BitVec.ofNat 8 i := by
  have e : (BitVec.ofNat 6 i).setWidth 8 = BitVec.ofNat 8 i := by
    apply BitVec.eq_of_toNat_eq
    simp
    omega
  unfold sendTag tagEnd tagContinue
  rw [e]; rfl

theorem flatMap_pairs (w : Nat → Byte) (n : Nat) :
    (List.range n).flatMap (fun i => [w (2 * i), w (2 * i + 1)]) = (List.range (2 * n)).map w := by
  induction n with
  | zero => rfl
  | succ n ih =>
    rw [List.range_succ, List.flatMap_append, ih, show 2 * (n + 1) = 2 * n + 1 + 1 by omega, List.range_succ, List.range_succ]
    simp

theorem State.tagged_eq (s : State) (sel : Buf) :
    s.tagged sel = (List.range (2 * s.totalLength sel)).map (s.wireByte sel) := by
  rw [← flatMap_pairs, State.tagged]
  apply List.flatMap_congr
  intro i hi
  rw [List.mem_range] at hi
  have e1 : 2 * i % 2 = 0 := by omega
  have e2 : (2 * i + 1) % 2 ≠ 0 := by omega
  have e3 : 2 * i / 2 = i := by omega
  have e4 : (2 * i + 1) / 2 = i := by omega
  rw [State.wireByte, State.wireByte, if_pos e1, if_neg e2, e3, e4, sendTag_eq _ _ (s.totalLength_bounds sel).2 hi]

theorem State.length_tagged (s : State) (sel : Buf) : (s.tagged sel).length = 2 * s.totalLength sel := by
  rw [State.tagged_eq]; simp

/-- One byte more of a transmission. -/
theorem State.send_step {s : State} {sel : Buf} {c : Caller} {j : Nat} (hj : j < 2 * s.totalLength sel)
    (h : s.seq = s.sendPosition sel c j) :
    s.blockStep = (s.setTxlog (s.txlog ++ [s.wireByte sel j])).setSeq (s.sendPosition sel c (j + 1)) := by
  rw [State.sendPosition, if_pos hj] at h
  by_cases e : j % 2 = 0
  · rw [if_pos e] at h
    have e1 : (j + 1) % 2 ≠ 0 := by omega
    have e2 : (j + 1) / 2 = j / 2 := by omega
    have e3 : j + 1 < 2 * s.totalLength sel := by omega
    rw [State.wireByte, if_pos e, State.sendPosition, if_pos e3, if_neg e1, e2]
    simp only [State.blockStep, h, State.chanWrite]
  · rw [if_neg e] at h
    rw [State.wireByte, if_neg e, State.sendPosition]
    by_cases e3 : j + 1 < 2 * s.totalLength sel
    · have e1 : (j + 1) % 2 = 0 := by omega
      have e2 : (j + 1) / 2 = j / 2 + 1 := by omega
      have e4 : j / 2 + 1 < s.totalLength sel := by omega
      rw [if_pos e3, if_pos e1, e2]
      simp only [State.blockStep, h, State.chanWrite, if_pos e4]
    · have e4 : ¬ j / 2 + 1 < s.totalLength sel := by omega
      rw [if_neg e3]
      simp only [State.blockStep, h, State.chanWrite, if_neg e4]

/-! ## The block's own step and the turns to come -/


theorem State.setEnv_setEnv (s : State) (e f : List Turn) : (s.setEnv e).setEnv f = s.setEnv f := rfl

theorem State.assembled_setEnv (s : State) (e : List Turn) : (s.setEnv e).assembled = s.assembled.setEnv e := rfl

theorem State.onRead_setEnv (s : State) (e : List Turn) (r : Option Byte) :
    (s.setEnv e).onRead r = (s.onRead r).setEnv e := by
  simp only [State.onRead, State.setEnv_seq]
  split
  · rfl
  · rfl
  · split_ifs <;> rfl
  · rfl
  · rename_i i b _
    show (s.setEnv e).assemble i b = (s.assemble i b).setEnv e
    unfold State.assemble
    have : ((s.setEnv e).setByte .incoming i b).totalLength .incoming = (s.setByte .incoming i b).totalLength .incoming := rfl
    simp only [this]
    split_ifs <;> rfl
  all_goals rfl

theorem State.boundedRead_setEnv (s : State) (e : List Turn) :
    (s.setEnv e).boundedRead = s.boundedRead.setEnv e := by
  simp only [State.boundedRead, State.setEnv_rxq]
  split
  · exact State.onRead_setEnv (s.setRxq _) e _
  · exact State.onRead_setEnv (s.setChoices _) e _

theorem State.fill_setEnv (s : State) (e : List Turn) (b : Buf) (i : Nat) (l : List Byte) :
    (s.setEnv e).fill b i l = (s.fill b i l).setEnv e := by
  induction l generalizing s i with
  | nil => rfl
  | cons x r ih => exact ih (s.setByte b i x) (i + 1)

theorem State.clearBuf_setEnv (s : State) (e : List Turn) (b : Buf) :
    (s.setEnv e).clearBuf b = (s.clearBuf b).setEnv e := State.fill_setEnv s e b 0 _

theorem State.putSource_setEnv (s : State) (e : List Turn) (b : Buf) (hi lo : Byte) :
    (s.setEnv e).putSource b hi lo = (s.putSource b hi lo).setEnv e := rfl
theorem State.putTarget_setEnv (s : State) (e : List Turn) (b : Buf) (hi lo : Byte) (k : BitVec 1) :
    (s.setEnv e).putTarget b hi lo k = (s.putTarget b hi lo k).setEnv e := rfl
theorem State.putLength_setEnv (s : State) (e : List Turn) (b : Buf) (n : Nat) :
    (s.setEnv e).putLength b n = (s.putLength b n).setEnv e := rfl
theorem State.setField_setEnv {n : Nat} (s : State) (e : List Turn) (b : Buf) (i lo : Nat) (v : BitVec n) :
    (s.setEnv e).setField b i lo v = (s.setField b i lo v).setEnv e := rfl
theorem State.putConfirmControl_setEnv (s : State) (e : List Turn) (n : BitVec 4) :
    (s.setEnv e).putConfirmControl n = (s.putConfirmControl n).setEnv e := rfl
theorem State.putChecksum_setEnv (s : State) (e : List Turn) (b : Buf) :
    (s.setEnv e).putChecksum b = (s.putChecksum b).setEnv e := rfl
theorem State.byte_setEnv (s : State) (e : List Turn) (b : Buf) (i : Nat) : (s.setEnv e).byte b i = s.byte b i := rfl
theorem State.field_setEnv (s : State) (e : List Turn) (b : Buf) (i lo n : Nat) :
    (s.setEnv e).field b i lo n = s.field b i lo n := rfl

theorem State.buildConfirmation_setEnv (s : State) (e : List Turn) :
    (s.setEnv e).buildConfirmation = s.buildConfirmation.setEnv e := by
  unfold State.buildConfirmation
  rw [State.clearBuf_setEnv, State.putSource_setEnv, State.putTarget_setEnv, State.putLength_setEnv,
    State.putConfirmControl_setEnv, State.putChecksum_setEnv]
  rfl

theorem State.classify_setEnv (s : State) (e : List Turn) (k : Cls) :
    (s.setEnv e).classify k = (s.classify k).setEnv e := by
  cases k with
  | available =>
    show (if (s.chanAvailable) = true then _ else _) = (if s.chanAvailable = true then _ else _ : State).setEnv e
    by_cases h : s.chanAvailable = true
    · rw [if_pos h, if_pos h]; rfl
    · rw [if_neg h, if_neg h]; rfl
  | read event => rfl
  | peek =>
    simp only [State.classify, State.chanPeek, State.setEnv_rxq]
    split
    · rfl
    · split_ifs
      · rfl
      · rw [State.clearBuf_setEnv]; generalize s.clearBuf .incoming = u; rfl
      · rfl

/-- The block's own step neither reads nor writes the turns to come. -/
theorem State.blockStep_setEnv (s : State) (e : List Turn) : (s.setEnv e).blockStep = s.blockStep.setEnv e := by
  simp only [State.blockStep, State.setEnv_seq]
  split
  · rfl
  · exact s.boundedRead_setEnv e
  · rfl
  · rfl
  · exact s.boundedRead_setEnv e
  · rfl
  · rename_i a _
    unfold State.afterDelay
    split <;> rfl
  · exact s.classify_setEnv e _
  · exact s.boundedRead_setEnv e
  · rfl
  · rename_i i _
    unfold State.confirm
    rw [State.buildConfirmation_setEnv]
    have : (s.setEnv e).numbered = s.numbered := rfl
    rw [this]
    split_ifs <;> rfl

theorem State.blockStep_env (s : State) : s.blockStep.env = s.env := by
  have h := congrArg State.env (State.blockStep_setEnv s s.env)
  exact h

/-- With nothing left to come, the block moves alone. -/
theorem runs_alone {s : State} (h : s.env = []) (k : Nat) : runs k s = .next (State.blockStep^[k] s) := by
  induction k generalizing s with
  | zero => rfl
  | succ k ih => rw [runs_succ (step_nil h), ih (by rw [State.blockStep_env, h])]; rfl

theorem runs_blocks {s : State} {r : List Turn} (k : Nat) (h : s.env = List.replicate k .block ++ r) :
    runs k s = .next ((State.blockStep^[k] s).setEnv r) := by
  induction k generalizing s with
  | zero => simp at h; subst h; rfl
  | succ k ih =>
    rw [List.replicate_succ, List.cons_append] at h
    rw [runs_succ (step_block h), State.blockStep_setEnv, ih (by rfl), Function.iterate_succ_apply]
    congr 1
    have : ∀ (j : Nat) (t : State) (e : List Turn), State.blockStep^[j] (t.setEnv e) = (State.blockStep^[j] t).setEnv e := by
      intro j
      induction j with
      | zero => intro t e; rfl
      | succ j ihj => intro t e; rw [Function.iterate_succ_apply, State.blockStep_setEnv, ihj]; rfl
    rw [this, State.setEnv_setEnv]

/-- A transmission, from its first tag to the wait for the confirmation. -/
theorem State.send_iterate {s : State} {sel : Buf} {c : Caller} (h : s.seq = .tx sel 0 .tag c) :
    State.blockStep^[2 * s.totalLength sel] s = (s.setTxlog (s.txlog ++ s.tagged sel)).setSeq (.conf c) := by
  have key : ∀ j, j ≤ 2 * s.totalLength sel →
      State.blockStep^[j] s = (s.setTxlog (s.txlog ++ (List.range j).map (s.wireByte sel))).setSeq (s.sendPosition sel c j) := by
    intro j
    induction j with
    | zero =>
      intro hj
      have hb := s.totalLength_bounds sel
      have : s.sendPosition sel c 0 = s.seq := by rw [h, State.sendPosition, if_pos (by omega)]; rfl
      rw [this]
      apply State.ext <;> simp
    | succ j ih =>
      intro hj
      rw [Function.iterate_succ_apply', ih (by omega),
        State.send_step (sel := sel) (c := c) (j := j) (by exact hj) rfl]
      rw [List.range_succ, List.map_append]
      apply State.ext <;> simp
      · rfl
      · rfl
  rw [key _ (Nat.le_refl _), s.tagged_eq, State.sendPosition, if_neg (Nat.lt_irrefl _)]
end Sys2Proof.Machine
end

