-- ==== Sys2Proof/Laws/Sequencer.lean ====
section
/-! SUPPORT. What the block's own steps and the channel's moves can change, said once per operation, and the transitions of
SEQ one by one. -/

namespace Sys2Proof.Machine

/-! ## What can change -/

/-- A state has its own session registers. -/
theorem SameSession.refl (s : State) : SameSession s s := ⟨rfl, rfl, rfl, rfl⟩

/-- A buffer command leaves the session registers. -/
theorem buffer_session {i : Instr} {b : Buf} {s t : State} (hb : i.buffer = some b) (h : exec i s = .next t) :
    SameSession s t := by
  obtain ⟨-, m, r, k, rfl, -⟩ := exec_buffer_cases hb h
  exact ⟨rfl, rfl, rfl, rfl⟩

/-- What the end of a bounded read can change in session and status. -/
theorem onRead_status (s : State) (o : Option Byte) :
    SameSession s (s.onRead o) ∧ ((s.onRead o).rxTimedOut ≠ s.rxTimedOut → ∃ i, s.seq = .pRx i) ∧
      (s.onRead o).confSentOk = s.confSentOk := by
  unfold State.onRead
  split
  · exact ⟨SameSession.refl s, fun h => absurd rfl h, rfl⟩
  · exact ⟨SameSession.refl s, fun h => absurd rfl h, rfl⟩
  · split_ifs <;> exact ⟨SameSession.refl s, fun h => absurd rfl h, rfl⟩
  · exact ⟨SameSession.refl s, fun h => absurd rfl h, rfl⟩
  · rename_i i b h
    refine ⟨?_, fun _ => ⟨i, h⟩, ?_⟩
    · unfold State.assemble; dsimp only; split_ifs <;> exact SameSession.refl s
    · unfold State.assemble; dsimp only; split_ifs <;> rfl
  · rename_i i h
    exact ⟨SameSession.refl s, fun _ => ⟨i, h⟩, rfl⟩
  all_goals exact ⟨SameSession.refl s, fun h => absurd rfl h, rfl⟩

/-- What a bounded read can change in session and status. -/
theorem boundedRead_status (s : State) :
    SameSession s s.boundedRead ∧ (s.boundedRead.rxTimedOut ≠ s.rxTimedOut → ∃ i, s.seq = .pRx i) ∧
      s.boundedRead.confSentOk = s.confSentOk := by
  unfold State.boundedRead
  split
  · exact onRead_status (s.setRxq _) _
  · exact onRead_status (s.setChoices _) _

/-! ## The confirmation POLL_EVENT builds (45_session_rx.md R236) -/

/-- Only the memory changes. -/
theorem buildConfirmation_frame (s : State) : s.buildConfirmation = s.setMem s.buildConfirmation.mem := by
  obtain ⟨m, hm, -, -, -⟩ := State.clearBuf_cases s .reply
  rw [State.buildConfirmation, hm]; rfl

/-- Only bytes of RPL change. -/
theorem buildConfirmation_other (s : State) (a : Nat) (h : ¬ (addr .reply 0 ≤ a ∧ a ≤ addr .reply 22)) :
    s.buildConfirmation.mem.read a = s.mem.read a := by
  obtain ⟨m, hm, hr, -, -⟩ := State.clearBuf_cases s .reply
  rw [State.buildConfirmation, hm]
  have key : ∀ i, i ≤ 22 → a ≠ addr .reply i := by
    intro i hi e
    apply h
    subst e
    simp only [addr]
    omega
  have k1 := key 1 (by decide); have k2 := key 2 (by decide); have k3 := key 3 (by decide); have k4 := key 4 (by decide)
  have k5 := key 5 (by decide); have k6 := key 6 (by decide)
  simp only [State.putChecksum, State.putConfirmControl, State.putLength, State.putTarget, State.putSource]
  rw [State.read_setByte, if_neg (key _ (State.checksumPos_bounds _ _).2)]
  simp only [State.read_setField, State.read_setByte, k1, k2, k3, k4, k5, k6, if_false]
  rw [show (s.setMem m).mem.read a = m.read a from rfl, hr, if_neg h]

/-- A byte of RPL after a byte of RPL is written. -/
theorem byte_setByte_reply (s : State) (i k : Nat) (v : Byte) (hi : i ≤ 22) (hk : k ≤ 22) :
    (s.setByte .reply i v).byte .reply k = if k = i then v else s.byte .reply k := by
  rw [State.byte_setByte _ _ _ _ _ _ hi hk]; simp

/-- A byte of RPL after a field of RPL is written. -/
theorem byte_setField_reply {n : Nat} (s : State) (i lo k : Nat) (v : BitVec n) (hi : i ≤ 22) (hk : k ≤ 22) :
    (s.setField .reply i lo v).byte .reply k = if k = i then putBits (s.byte .reply i) lo v else s.byte .reply k := by
  rw [State.byte_setField _ _ _ _ _ _ _ hi hk]; simp

/-- The confirmation, byte by byte. -/
theorem buildConfirmation_bytes (s : State) (k : Nat) (hk : k ≤ 22) :
    s.buildConfirmation.byte .reply k = [0xBC#8, (s.ownAddr >>> 8).setWidth 8, s.ownAddr.setWidth 8, s.byte .incoming 1,
        s.byte .incoming 2, 0x60#8, 0xC2#8 ||| (s.byte .incoming 6 &&& 0x3C#8), 0xFF#8 ^^^ 0xBC#8 ^^^ (s.ownAddr >>> 8).setWidth 8 ^^^ s.ownAddr.setWidth 8 ^^^ s.byte .incoming 1 ^^^
      s.byte .incoming 2 ^^^ 0x60#8 ^^^ (0xC2#8 ||| (s.byte .incoming 6 &&& 0x3C#8))].getD k 0x00#8 := by
  have e1 : s.ownAddr.extractLsb' 8 8 = (s.ownAddr >>> 8).setWidth 8 := by ext i hi; simp
  have e2 : s.ownAddr.extractLsb' 0 8 = s.ownAddr.setWidth 8 := by ext i hi; simp
  obtain ⟨m, hm, hr, hb, -⟩ := State.clearBuf_cases s .reply
  rw [State.buildConfirmation, hm]
  generalize s.setMem m = c at hb ⊢
  have sn : ∀ x : Byte, putBits (putBits (putBits (clearByte 6) 6 commNcd) 2 (getBits x 2 4)) 0 controlPosConfirm = 0xC2#8 ||| (x &&& 0x3C#8) := by decide
  have five : putBits (putBits (clearByte 5) 7 0#1) 0 (BitVec.ofNat 4 (1 - 1)) = 0x60#8 := by decide
  obtain ⟨v, hv⟩ : ∃ v, v = ((((c.putSource .reply (s.ownAddr.extractLsb' 8 8) (s.ownAddr.extractLsb' 0 8)).putTarget .reply
    (s.byte .incoming 1) (s.byte .incoming 2) 0#1).putLength .reply 1).putConfirmControl (s.field .incoming 6 2 4)) := ⟨_, rfl⟩
  rw [← hv]
  have vb : ∀ k ≤ 22, v.byte .reply k = if k = 6 then 0xC2#8 ||| (s.byte .incoming 6 &&& 0x3C#8) else if k = 5 then 0x60#8
      else if k = 4 then s.byte .incoming 2 else if k = 3 then s.byte .incoming 1 else if k = 2 then s.ownAddr.setWidth 8 else if k = 1 then (s.ownAddr >>> 8).setWidth 8
      else clearByte k := by
    intro k hk
    have d6 : (6 : Nat) ≤ 22 := by decide
    have d5 : (5 : Nat) ≤ 22 := by decide
    have d4 : (4 : Nat) ≤ 22 := by decide
    have d3 : (3 : Nat) ≤ 22 := by decide
    have d2 : (2 : Nat) ≤ 22 := by decide
    have d1 : (1 : Nat) ≤ 22 := by decide
    rw [hv]
    simp only [State.putConfirmControl, State.putLength, State.putTarget, State.putSource, byte_setField_reply _ _ _ _ _ d6 hk, byte_setField_reply _ _ _ _ _ d6 d6,
      byte_setField_reply _ _ _ _ _ d5 hk, byte_setField_reply _ _ _ _ _ d5 d5, byte_setField_reply _ _ _ _ _ d5 d6, byte_setByte_reply _ _ _ _ d4 hk, byte_setByte_reply _ _ _ _ d4 d6, byte_setByte_reply _ _ _ _ d4 d5,
      byte_setByte_reply _ _ _ _ d3 hk, byte_setByte_reply _ _ _ _ d3 d6, byte_setByte_reply _ _ _ _ d3 d5, byte_setByte_reply _ _ _ _ d2 hk, byte_setByte_reply _ _ _ _ d2 d6, byte_setByte_reply _ _ _ _ d2 d5, byte_setByte_reply _ _ _ _ d1 hk, byte_setByte_reply _ _ _ _ d1 d6, byte_setByte_reply _ _ _ _ d1 d5]
    rw [hb k hk, hb 6 d6, hb 5 d5]
    simp only [if_true, e1, e2, (by decide : ¬ (6 : Nat) = 5), (by decide : ¬ (6 : Nat) = 4), (by decide : ¬ (6 : Nat) = 3), (by decide : ¬ (6 : Nat) = 2), (by decide : ¬ (6 : Nat) = 1),
      (by decide : ¬ (5 : Nat) = 4), (by decide : ¬ (5 : Nat) = 3), (by decide : ¬ (5 : Nat) = 2), (by decide : ¬ (5 : Nat) = 1), if_false, State.field, sn, five]
    split_ifs <;> rfl
  have pl : v.payloadLength .reply = 1 := by
    have v5 : v.byte .reply 5 = 0x60#8 := vb 5 (by decide)
    rw [State.payloadLength, State.field, v5]; decide
  have cp : v.checksumPos .reply = 7 := by rw [State.checksumPos, pl]
  have cs : v.checksum .reply = 0xFF#8 ^^^ 0xBC#8 ^^^ (s.ownAddr >>> 8).setWidth 8 ^^^ s.ownAddr.setWidth 8 ^^^ s.byte .incoming 1 ^^^
      s.byte .incoming 2 ^^^ 0x60#8 ^^^ (0xC2#8 ||| (s.byte .incoming 6 &&& 0x3C#8)) := by
    rw [State.checksum, cp, State.bytesFrom]
    have : (List.range 7).map (fun k => v.byte .reply (0 + k)) = [v.byte .reply 0, v.byte .reply 1, v.byte .reply 2, v.byte .reply 3, v.byte .reply 4, v.byte .reply 5, v.byte .reply 6] := rfl
    rw [this, vb 0 (by decide), vb 1 (by decide), vb 2 (by decide), vb 3 (by decide), vb 4 (by decide), vb 5 (by decide), vb 6 (by decide)]
    rfl
  rw [State.putChecksum, cp, cs, byte_setByte_reply _ _ _ _ (by decide) hk, vb k hk]
  interval_cases k <;> rfl

/-- The canonical form is kept. -/
theorem buildConfirmation_wf {s : State} (h : s.mem.wf = true) : s.buildConfirmation.mem.wf = true := by
  obtain ⟨m, hm, -, -, hw⟩ := State.clearBuf_cases s .reply
  rw [State.buildConfirmation, hm]
  apply State.putChecksum_wf
  unfold State.putConfirmControl
  have h1 : ((((s.setMem m).putSource .reply (s.ownAddr.extractLsb' 8 8) (s.ownAddr.extractLsb' 0 8)).putTarget .reply
    (s.byte .incoming 1) (s.byte .incoming 2) 0#1).putLength .reply 1).mem.wf = true :=
    State.putLength_wf _ _ (State.putTarget_wf _ _ _ _ (State.putSource_wf _ _ _ (hw h)))
  exact State.setByte_wf _ (State.setByte_wf _ (State.setByte_wf _ h1 (by decide)) (by decide)) (by decide)

/-! ## What can change, of the block and the channel -/

/-- What a step of the classification can change in session and status. -/
theorem classify_status (s : State) (k : Cls) :
    SameSession s (s.classify k) ∧ ((s.classify k).rxTimedOut ≠ s.rxTimedOut → k = .peek) ∧
      (s.classify k).confSentOk = s.confSentOk := by
  cases k with
  | available => unfold State.classify; split_ifs <;> exact ⟨SameSession.refl s, fun h => absurd rfl h, rfl⟩
  | read event => exact ⟨SameSession.refl s, fun h => absurd rfl h, rfl⟩
  | peek =>
    simp only [State.classify]
    split
    · exact ⟨SameSession.refl s, fun _ => trivial, rfl⟩
    · split_ifs
      · exact ⟨SameSession.refl s, fun _ => trivial, rfl⟩
      · have := s.clearBuf_frame .incoming
        generalize s.clearBuf .incoming = u at this
        rw [this]; exact ⟨SameSession.refl s, fun _ => trivial, rfl⟩
      · exact ⟨SameSession.refl s, fun _ => trivial, rfl⟩

/-- What the block's own step can change in session and status. -/
theorem blockStep_status (s : State) :
    SameSession s s.blockStep ∧ (s.blockStep.rxTimedOut ≠ s.rxTimedOut → s.seq = .pCls .peek ∨ ∃ i, s.seq = .pRx i) ∧
      (s.blockStep.confSentOk ≠ s.confSentOk → (∃ i, s.seq = .pNcd i) ∨ ∃ ok, s.seq = .dly (.confirmed .pollEvent ok)) := by
  unfold State.blockStep
  split
  case h_1 => exact ⟨SameSession.refl s, fun h => absurd rfl h, fun h => absurd rfl h⟩
  case h_2 h => have := boundedRead_status s; exact ⟨this.1, fun g => .inr (this.2.1 g), fun g => absurd this.2.2 g⟩
  case h_5 h => have := boundedRead_status s; exact ⟨this.1, fun g => .inr (this.2.1 g), fun g => absurd this.2.2 g⟩
  case h_9 h => have := boundedRead_status s; exact ⟨this.1, fun g => .inr (this.2.1 g), fun g => absurd this.2.2 g⟩
  case h_3 => exact ⟨SameSession.refl s, fun h => absurd rfl h, fun h => absurd rfl h⟩
  case h_4 => exact ⟨SameSession.refl s, fun h => absurd rfl h, fun h => absurd rfl h⟩
  case h_6 => exact ⟨SameSession.refl s, fun h => absurd rfl h, fun h => absurd rfl h⟩
  case h_10 => exact ⟨SameSession.refl s, fun h => absurd rfl h, fun h => absurd rfl h⟩
  case h_7 a ha =>
    cases a with
    | acknowledged => exact ⟨SameSession.refl s, fun h => absurd rfl h, fun h => absurd rfl h⟩
    | pollAcknowledged i => exact ⟨SameSession.refl s, fun h => absurd rfl h, fun h => absurd rfl h⟩
    | confirmed c ok =>
      cases c
      · exact ⟨SameSession.refl s, fun h => absurd rfl h, fun h => absurd rfl h⟩
      · exact ⟨SameSession.refl s, fun h => absurd rfl h, fun _ => .inr ⟨ok, ha⟩⟩
  case h_8 k h =>
    have := classify_status s k
    exact ⟨this.1, fun g => .inl (this.2.1 g ▸ h), fun g => absurd this.2.2 g⟩
  case h_11 i h =>
    have := buildConfirmation_frame s
    generalize hu : s.buildConfirmation = u at this
    refine ⟨?_, ?_, fun _ => .inl ⟨i, h⟩⟩
    · unfold State.confirm; rw [hu, this]; split_ifs <;> exact SameSession.refl s
    · intro g; exfalso; apply g; unfold State.confirm; rw [hu, this]; split_ifs <;> rfl

/-- What a delivery can change in session and status. -/
theorem chanDeliver_status (s : State) (b : Byte) :
    SameSession s (s.chanDeliver b) ∧ ((s.chanDeliver b).rxTimedOut ≠ s.rxTimedOut → ∃ i, s.seq = .pRx i) ∧
      (s.chanDeliver b).confSentOk = s.confSentOk := by
  unfold State.chanDeliver; split_ifs
  · exact onRead_status _ _
  · exact ⟨SameSession.refl s, fun h => absurd rfl h, rfl⟩

/-- What a timeout can change in session and status. -/
theorem chanTimeout_status (s : State) :
    SameSession s (s.chanTimeout) ∧ ((s.chanTimeout).rxTimedOut ≠ s.rxTimedOut → ∃ i, s.seq = .pRx i) ∧
      (s.chanTimeout).confSentOk = s.confSentOk := by
  unfold State.chanTimeout; split_ifs
  · exact onRead_status _ _
  · exact ⟨SameSession.refl s, fun h => absurd rfl h, rfl⟩

/-! ## Transitions of SEQ -/

/-- Bytes that are no confirmation are discarded while the block waits for one (44_framer.md R203). -/
theorem conf_discards {c : Caller} (other : List Byte) : ∀ (s : State) (q : List Byte), s.seq = .conf c → s.rxq = other ++ q →
    (∀ x ∈ other, isConfirmation x = false) → State.blockStep^[other.length] s = s.setRxq q := by
  induction other with
  | nil => intro s q _ hq _; simp at hq; subst hq; rfl
  | cons b r ih =>
    intro s q hs hq ho
    have hb := ho b (by simp)
    simp [isConfirmation] at hb
    have e : s.blockStep = s.setRxq (r ++ q) := by
      have h1' : ¬ b = positiveConfirmation := hb.1
      have h2' : ¬ b = negativeConfirmation := hb.2
      simp only [State.blockStep, hs, State.boundedRead, hq, List.cons_append, State.onRead, State.setRxq_seq]
      rw [if_neg h1', if_neg h2']
    rw [List.length_cons, Function.iterate_succ_apply, e, ih (s.setRxq (r ++ q)) q hs rfl (fun x hx => ho x (by simp [hx]))]
    rfl

/-- A confirmation ends the wait. -/
theorem conf_step {s : State} {c : Caller} {b : Byte} {q : List Byte} (hs : s.seq = .conf c) (hq : s.rxq = b :: q)
    (hb : isConfirmation b = true) : s.blockStep = (s.setRxq q).setSeq (.dly (.confirmed c (if b = 0x8B#8 then 1#1 else 0#1))) := by
  simp only [State.blockStep, hs, State.boundedRead, hq, State.onRead, State.setRxq_seq]
  simp [isConfirmation] at hb
  rcases hb with rfl | rfl
  · rfl
  · rfl

/-- The delay ends in one step. -/
theorem dly_step {s : State} {a : After} (hs : s.seq = .dly a) : s.blockStep = s.afterDelay a := by
  simp only [State.blockStep, hs]

/-- A queue that holds a byte is peeked at. -/
theorem cls_available {s : State} {b : Byte} {q : List Byte} (hs : s.seq = .pCls .available) (hq : s.rxq = b :: q) :
    s.blockStep = s.setSeq (.pCls .peek) := by
  simp only [State.blockStep, hs, State.classify, State.chanAvailable, hq, List.isEmpty_cons, Bool.not_false, if_true]

/-- A byte that is no frame start is consumed next, its event decided. -/
theorem cls_peek_other {s : State} {b : Byte} {q : List Byte} (hs : s.seq = .pCls .peek) (hq : s.rxq = b :: q)
    (hf : b ||| 0x2C#8 ≠ 0xBC#8) : s.blockStep = s.setSeq (.pCls (.read (if b = 0x03#8 then 1#3 else 4#3))) := by
  have hf' : ¬ isFrameStartByte b = true := fun x => hf ((isFrameStartByte_iff b).mp x)
  simp only [State.blockStep, hs, State.classify, State.chanPeek, hq, List.head?_cons]
  by_cases h : b = 0x03#8
  · rw [if_pos h]; exact if_pos h
  · rw [if_neg h, if_neg (show ¬ b = resetIndByte from h), if_neg hf']

/-- A frame start begins the assembly. -/
theorem cls_peek_start {s : State} {b : Byte} {q : List Byte} (hs : s.seq = .pCls .peek) (hq : s.rxq = b :: q)
    (hf : b ||| 0x2C#8 = 0xBC#8) :
    ∃ m : Memory, s.blockStep = ((s.setMem m).setRxTimedOut 0#1).setSeq (.pRx 0) ∧
      (∀ i ≤ 22, (s.setMem m).byte .incoming i = clearByte i) ∧ (∀ a, 22 < a → m.read a = s.mem.read a) := by
  have h3' : ¬ b = resetIndByte := by rintro rfl; exact absurd hf (by decide)
  have hf' : isFrameStartByte b = true := (isFrameStartByte_iff b).mpr hf
  obtain ⟨m, hm, hr, hb, -⟩ := State.clearBuf_cases s .incoming
  refine ⟨m, ?_, hb, fun a ha => ?_⟩
  · simp only [State.blockStep, hs, State.classify, State.chanPeek, hq, List.head?_cons, if_neg h3', if_pos hf', hm]
  · rw [hr, if_neg (by simp only [addr]; omega)]

/-- The two steps from the acceptance of POLL_EVENT to the first read of a telegram. -/
theorem cls_start {s : State} {b : Byte} {q : List Byte} (hs : s.seq = .pCls .available) (hq : s.rxq = b :: q)
    (hf : b ||| 0x2C#8 = 0xBC#8) :
    ∃ m : Memory, s.blockStep.blockStep = ((s.setMem m).setRxTimedOut 0#1).setSeq (.pRx 0) ∧
      (∀ i ≤ 22, (s.setMem m).byte .incoming i = clearByte i) ∧ (∀ a, 22 < a → m.read a = s.mem.read a) := by
  rw [cls_available hs hq]
  obtain ⟨m, h, hb, hr⟩ := cls_peek_start (s := s.setSeq (.pCls .peek)) rfl hq hf
  exact ⟨m, h, hb, hr⟩

/-- The acknowledgement. -/
theorem ack_step {s : State} {i : BitVec 1} (hs : s.seq = .pAck i) :
    s.blockStep = (s.chanWrite (if i = 1#1 then 0x11#8 else 0x10#8)).setSeq (.dly (.pollAcknowledged i)) := by
  simp only [State.blockStep, hs]; rfl

/-- The transport step without a confirmation. -/
theorem ncd_none {s : State} {i : BitVec 1} (hs : s.seq = .pNcd i) (h : i = 0#1 ∨ s.byte .incoming 6 &&& 0x40#8 = 0x00#8) :
    s.blockStep = (s.setConfSentOk 0#1).finish (.code3 (if i = 1#1 then 2#3 else 3#3)) := by
  have num : s.numbered = true ↔ s.byte .incoming 6 &&& 0x40#8 ≠ 0x00#8 := by
    rw [State.numbered, State.commType, State.field]
    generalize s.byte .incoming 6 = x
    revert x; decide
  simp only [State.blockStep, hs, State.confirm]
  rw [if_neg]
  · rfl
  · rintro ⟨h1, h2⟩
    rcases h with hi | hi
    · rw [h1] at hi; exact absurd hi (by decide)
    · exact num.mp h2 hi

/-- The transport step with a confirmation. -/
theorem ncd_some {s : State} (hs : s.seq = .pNcd 1#1) (h : s.byte .incoming 6 &&& 0x40#8 ≠ 0x00#8) :
    s.blockStep = s.buildConfirmation.setSeq (.tx .reply 0 .tag .pollEvent) := by
  have num : s.numbered = true ↔ s.byte .incoming 6 &&& 0x40#8 ≠ 0x00#8 := by
    rw [State.numbered, State.commType, State.field]
    generalize s.byte .incoming 6 = x
    revert x; decide
  simp only [State.blockStep, hs, State.confirm]
  rw [if_pos ⟨trivial, num.mpr h⟩]

end Sys2Proof.Machine
end

