-- ==== Sys2Proof/Tests/Slice0.lean ====
section
/-! SUPPORT. The author's own tests, one step each, and for every statement with hypotheses a witness that meets them.

Where a test has an expected value, it is the spec's: a word is written out from the encoding of its row
(30_encoding.md), a result is a line of 95_test_vectors.md, both named at the test. -/

namespace Sys2Proof.Tests

open Sys2Proof Sys2Proof.Machine

/-! ## States -/

/-- The start state of 95_test_vectors.md: own address 1.1.5, listen set {1/2/3}, both buffers CLEAR, nothing queued. -/
def idle : State where
  mem := []
  ownAddr := 0x1105#16
  listen := (Vector.replicate 48 0#16).set 0 0x0A03#16
  listenCount := 1#6
  listenBcast := 0#1
  rxTimedOut := 0#1
  confSentOk := 0#1
  seq := .idle
  result := none
  rxq := []
  txlog := []
  env := []
  choices := 0

/-- `idle` with a telegram in IN from byte 0. -/
def tg (bytes : List Byte) : State := idle.fill .incoming 0 bytes

/-- `idle` at a position of the sequencer, with bytes queued. -/
def at_ (q : Seq) (rxq : List Byte) : State := (idle.setSeq q).setRxq rxq

/-- What a next state has on the result port. -/
def resultOf : Out → Option Result
  | .next t => t.result
  | .fault _ | .refused _ => none

/-- Why a command is refused. -/
def refusalOf : Out → Option Refusal
  | .refused r => some r
  | .next _ | .fault _ => none

/-- The first `n` bytes of IN in a next state. -/
def bytesOf (n : Nat) : Out → List Byte
  | .next t => t.bytesFrom .incoming 0 n
  | .fault _ | .refused _ => []

/-- SEQ and the channel of a next state. -/
def channelOf : Out → Option (Seq × List Byte × List Byte)
  | .next t => some (t.seq, t.rxq, t.txlog)
  | .fault _ | .refused _ => none

/-- A command word: OP, SEL, operand bytes, zeros. -/
def cmd (op sel : Byte) (operands : List Byte) : List Byte :=
  [op, sel] ++ operands ++ List.replicate (14 - operands.length) 0x00#8

/-! ## WellFormed refuses each ill-formed term -/

/-- A tag that is not the last cannot name byte 22 (R88). -/
theorem test_wellFormed_tagContinue_high :
    (Instr.txTagContinue 22#6).wellFormed = false ∧ (Instr.txTagContinue 21#6).wellFormed = true := by decide

/-- A last byte cannot be byte 6 (R88). -/
theorem test_wellFormed_tagEnd_low :
    (Instr.txTagEnd 6#6).wellFormed = false ∧ (Instr.txTagEnd 7#6).wellFormed = true := by decide

/-- A last byte cannot be byte 23 (R88). -/
theorem test_wellFormed_tagEnd_high :
    (Instr.txTagEnd 23#6).wellFormed = false ∧ (Instr.txTagEnd 22#6).wellFormed = true := by decide

/-! ## Decoding: a word for every row -/

/-- Rows 0x00 to 0x0F of R91. -/
theorem test_decode_codec_low : ∀ p ∈ [
    (cmd 0x00#8 0x01#8 [], (.clear .reply : Instr)),
    (cmd 0x01#8 0x00#8 [0x16#8], (.getByte .incoming 22#5 : Instr)),
    (cmd 0x02#8 0x01#8 [0xE5#8, 0x0D#8], (.setByte .reply 5#5 0x6F#8 : Instr)),
    (cmd 0x03#8 0x00#8 [], (.getTotalLength .incoming : Instr)),
    (cmd 0x04#8 0x01#8 [0x10#8], (.setPayloadLength .reply 16#5 : Instr)),
    (cmd 0x05#8 0x00#8 [], (.getPayloadLength .incoming : Instr)),
    (cmd 0x06#8 0x01#8 [0x01#8], (.setRepeated .reply 1#1 : Instr)),
    (cmd 0x07#8 0x00#8 [], (.isRepeated .incoming : Instr)),
    (cmd 0x08#8 0x00#8 [0x02#8], (.setPriority .incoming 0b10#2 : Instr)),
    (cmd 0x09#8 0x01#8 [], (.getPriority .reply : Instr)),
    (cmd 0x0A#8 0x00#8 [0x21#8, 0x64#8], (.setSourceAddress .incoming 1#4 2#4 100#8 : Instr)),
    (cmd 0x0B#8 0x00#8 [], (.getSourceAddress .incoming : Instr)),
    (cmd 0x0C#8 0x01#8 [0x23#8, 0x0A#8], (.setTargetGroup .reply 3#5 1#3 10#8 : Instr)),
    (cmd 0x0D#8 0x00#8 [], (.getTargetGroup .incoming : Instr)),
    (cmd 0x0E#8 0x00#8 [0x0F#8, 0x01#8], (.setTargetIndividual .incoming 15#4 0#4 1#8 : Instr)),
    (cmd 0x0F#8 0x01#8 [], (.getTargetIndividual .reply : Instr))],
    decode .command p.1 = .ok p.2 := by decide

/-- Rows 0x10 to 0x20 of R91. -/
theorem test_decode_codec_high : ∀ p ∈ [
    (cmd 0x10#8 0x00#8 [0x01#8], (.setTargetType .incoming 1#1 : Instr)),
    (cmd 0x11#8 0x00#8 [], (.isTargetGroup .incoming : Instr)),
    (cmd 0x12#8 0x01#8 [0x06#8], (.setRoutingCounter .reply 6#3 : Instr)),
    (cmd 0x13#8 0x00#8 [], (.getRoutingCounter .incoming : Instr)),
    (cmd 0x14#8 0x00#8 [0x03#8], (.setCommType .incoming 0b11#2 : Instr)),
    (cmd 0x15#8 0x01#8 [], (.getCommType .reply : Instr)),
    (cmd 0x16#8 0x00#8 [0x09#8], (.setSequenceNumber .incoming 9#4 : Instr)),
    (cmd 0x17#8 0x00#8 [], (.getSequenceNumber .incoming : Instr)),
    (cmd 0x18#8 0x01#8 [0x02#8], (.setControlData .reply 0b10#2 : Instr)),
    (cmd 0x19#8 0x00#8 [], (.getControlData .incoming : Instr)),
    (cmd 0x1A#8 0x01#8 [0x02#8], (.setCommand .reply 0b0010#4 : Instr)),
    (cmd 0x1B#8 0x00#8 [], (.getCommand .incoming : Instr)),
    (cmd 0x1C#8 0x00#8 [0x15#8], (.setExtendedCommand .incoming 0b010101#6 : Instr)),
    (cmd 0x1D#8 0x01#8 [], (.getExtendedCommand .reply : Instr)),
    (cmd 0x1E#8 0x00#8 [0x21#8], (.setFirstDataByte .incoming 0b100001#6 : Instr)),
    (cmd 0x1F#8 0x00#8 [], (.getFirstDataByte .incoming : Instr)),
    (cmd 0x20#8 0x01#8 [], (.decodeAppCommand .reply : Instr))],
    decode .command p.1 = .ok p.2 := by decide

/-- Rows 0x21 to 0x24 of R91. -/
theorem test_decode_checksum : ∀ p ∈ [
    (cmd 0x21#8 0x00#8 [], (.calcChecksum .incoming : Instr)),
    (cmd 0x22#8 0x01#8 [], (.createChecksum .reply : Instr)),
    (cmd 0x23#8 0x00#8 [], (.verifyChecksum .incoming : Instr)),
    (cmd 0x24#8 0x01#8 [], (.getChecksum .reply : Instr))],
    decode .command p.1 = .ok p.2 := by decide

/-- Rows 0x25 to 0x2F of R91. -/
theorem test_decode_datapoint : ∀ p ∈ [
    (cmd 0x25#8 0x00#8 [], (.getBool .incoming : Instr)),
    (cmd 0x26#8 0x01#8 [0xC8#8], (.set1ByteInt .reply 0xC8#8 : Instr)),
    (cmd 0x27#8 0x00#8 [], (.get1ByteInt .incoming : Instr)),
    (cmd 0x28#8 0x01#8 [0x00#8, 0x00#8, 0x2F#8, 0x44#8], (.set2ByteFloat .reply 0x442F0000#32 : Instr)),
    (cmd 0x29#8 0x00#8 [], (.get2ByteFloat .incoming : Instr)),
    (cmd 0x2A#8 0x00#8 [0x01#8, 0x00#8, 0xAC#8, 0x41#8], (.set4ByteFloat .incoming 0x41AC0001#32 : Instr)),
    (cmd 0x2B#8 0x01#8 [], (.get4ByteFloat .reply : Instr)),
    (cmd 0x2C#8 0x01#8 [0x48#8, 0x45#8, 0x4C#8, 0x4C#8, 0x4F#8, 0x00#8, 0x00#8, 0x00#8, 0x00#8, 0x00#8, 0x00#8, 0x00#8, 0x00#8, 0x21#8], (.set14ByteText .reply #v[0x48#8, 0x45#8, 0x4C#8, 0x4C#8, 0x4F#8, 0#8, 0#8, 0#8, 0#8, 0#8, 0#8, 0#8, 0#8, 0x21#8] : Instr)),
    (cmd 0x2D#8 0x00#8 [], (.get14ByteText .incoming : Instr)),
    (cmd 0x2E#8 0x00#8 [0x73#8, 0x5E#8, 0x01#8], (.setTime .incoming 3#3 14#5 30#6 5#6 : Instr)),
    (cmd 0x2F#8 0x01#8 [], (.getTime .reply : Instr))],
    decode .command p.1 = .ok p.2 := by decide

/-- Rows 0x30 to 0x3F of R91. -/
theorem test_decode_framer_session : ∀ p ∈ [
    (cmd 0x30#8 0x00#8 [0x9C#8], (.isFrameStart 0x9C#8 : Instr)),
    (cmd 0x31#8 0x00#8 [0x03#8], (.classifyByte 0x03#8 : Instr)),
    (cmd 0x32#8 0x00#8 [], (.readByteTimeout : Instr)),
    (cmd 0x33#8 0x01#8 [], (.sendFrame .reply : Instr)),
    (cmd 0x34#8 0x00#8 [], (.sendAck : Instr)),
    (cmd 0x35#8 0x00#8 [], (.sendNotAddressed : Instr)),
    (cmd 0x36#8 0x00#8 [], (.pollEvent : Instr)),
    (cmd 0x37#8 0x00#8 [], (.getRxStatus : Instr)),
    (cmd 0x38#8 0x00#8 [0x21#8, 0x64#8], (.setOwnAddress 1#4 2#4 100#8 : Instr)),
    (cmd 0x39#8 0x00#8 [], (.getOwnAddress : Instr)),
    (cmd 0x3A#8 0x00#8 [0x41#8, 0x03#8], (.addListenGroup 1#5 2#3 3#8 : Instr)),
    (cmd 0x3B#8 0x00#8 [0xFF#8, 0xFF#8], (.isListeningGroup 31#5 7#3 255#8 : Instr)),
    (cmd 0x3C#8 0x00#8 [], (.getListenCount : Instr)),
    (cmd 0x3D#8 0x00#8 [0x01#8], (.setListenBroadcast 1#1 : Instr)),
    (cmd 0x3E#8 0x00#8 [], (.getListenBroadcast : Instr)),
    (cmd 0x3F#8 0x01#8 [], (.isOfInterest .reply : Instr))],
    decode .command p.1 = .ok p.2 := by decide

/-- The rows of R87, bit by bit: start mask 10rp pp.. of R71, the reset indication and the confirmations. -/
theorem test_decode_receive : ∀ p ∈ [
    (0b10110100#8, Instr.rxFrameStart 1#1 0b01#2),
    (0b10010000#8, Instr.rxFrameStart 0#1 0b00#2),
    (0b00000011#8, Instr.rxResetIndication),
    (0b10001011#8, Instr.rxPositiveConfirmation),
    (0b00001011#8, Instr.rxNegativeConfirmation)],
    decode .receive [p.1] = .ok p.2 := by decide

/-- The rows of R88. -/
theorem test_decode_transmit : ∀ p ∈ [
    (0b10000101#8, Instr.txTagContinue 5#6),
    (0b01010110#8, Instr.txTagEnd 22#6),
    (0b00010001#8, Instr.txAck),
    (0b00010000#8, Instr.txNotAddressed)],
    decode .transmit [p.1] = .ok p.2 := by decide

/-- The rows of R84: cmd4 in bits 9 to 6, the six bits after it below. -/
theorem test_decode_apci : ∀ p ∈ [
    ([0b00111111#8, 0b00#8], Instr.apciGroupRead 63#6),
    ([0b01000001#8, 0b00#8], Instr.apciGroupResponse 1#6),
    ([0b10000001#8, 0b00#8], Instr.apciGroupWrite 1#6),
    ([0b11000000#8, 0b00#8], Instr.apciIndividualAddrWrite 0#6),
    ([0b00000000#8, 0b01#8], Instr.apciIndividualAddrRead 0#6),
    ([0b01000000#8, 0b01#8], Instr.apciIndividualAddrResponse 0#6),
    ([0b00000100#8, 0b10#8], Instr.apciMemoryRead 4#6),
    ([0b01000100#8, 0b10#8], Instr.apciMemoryResponse 4#6),
    ([0b10000100#8, 0b10#8], Instr.apciMemoryWrite 4#6),
    ([0b00000000#8, 0b11#8], Instr.apciDeviceDescriptorRead 0#6),
    ([0b01000000#8, 0b11#8], Instr.apciDeviceDescriptorResponse 0#6),
    ([0b10000001#8, 0b11#8], Instr.apciRestart 1#6),
    ([0b11010001#8, 0b11#8], Instr.apciAuthorizeRequest),
    ([0b11010010#8, 0b11#8], Instr.apciAuthorizeResponse),
    ([0b11010101#8, 0b11#8], Instr.apciPropertyRead),
    ([0b11010110#8, 0b11#8], Instr.apciPropertyResponse),
    ([0b11010111#8, 0b11#8], Instr.apciPropertyWrite)],
    decode .apci p.1 = .ok p.2 := by decide

/-- Words of no row are refused by name: 0xBD is no frame start (90_conflicts.md C2), 0x00 is no tag and no
acknowledgement, codes 0110 and 1111 with 010011 are unmapped (R85), a command word with bit 7 set. An operand line above
the row's is ignored. -/
theorem test_decode_refuses :
    decode .receive [0xBD#8] = .error .notAControlByte ∧ decode .transmit [0x00#8] = .error .notASendByte ∧
    decode .apci [0x80#8, 0x01#8] = .error .unmappedApci ∧ decode .apci [0xD3#8, 0x03#8] = .error .unmappedApci ∧
    decode .command (cmd 0x80#8 0#8 []) = .error .unassignedBits ∧
    decode .command (cmd 0x01#8 0#8 [0x25#8]) = .ok (.getByte .incoming 5#5) ∧
    decode .command [0x00#8] = .error .wrongLength := by decide

/-- The next word issued runs in the next step: POLL_EVENT from its bare table word. -/
theorem test_withFetchWord :
    channelOf (step (idle.withFetchWord 8 0x36)) = some (.pCls .available, [], []) ∧
    decodeTableWord 8 0x8B = some .rxPositiveConfirmation ∧ decodeTableWord 16 0x3D1 = some .apciAuthorizeRequest := by
  decide

/-- A word of no row still moves: a byte that is no control byte is delivered, a telegram byte is written, an unmapped
application code is UNKNOWN (R85, R192, R202). -/
theorem test_issue_no_row :
    channelOf (step (idle.setEnv [.issue (.receive 0xBD#8)])) = some (.idle, [0xBD#8], []) ∧
    channelOf (step (idle.setEnv [.issue (.transmit 0x00#8)])) = some (.idle, [], [0x00#8]) ∧
    resultOf (step (idle.setEnv [.issue (.apci 0x180#10)])) = some (.code5 0#5) := by decide

/-! ## Codec fields (95_test_vectors.md 1.2, 1.3, 2.1) -/

theorem test_clear : bytesOf 23 (exec (.clear .incoming) (tg (List.replicate 23 0xFF#8))) =
    [0xBC#8, 0#8, 0#8, 0#8, 0#8, 0xE1#8] ++ List.replicate 17 0#8 := by decide

theorem test_getByte :
    resultOf (exec (.getByte .incoming 0#5) idle) = some (.byte 0xBC#8) ∧
    resultOf (exec (.getByte .incoming 22#5) idle) = some (.byte 0x00#8) ∧
    refusalOf (exec (.getByte .incoming 23#5) idle) = some .indexOutOfRange := by decide

theorem test_setByte :
    bytesOf 7 (exec (.setByte .incoming 5#5 0x6F#8) idle) = [0xBC#8, 0#8, 0#8, 0#8, 0#8, 0x6F#8, 0#8] ∧
    refusalOf (exec (.setByte .reply 31#5 0x55#8) idle) = some .indexOutOfRange := by decide

theorem test_setPayloadLength :
    bytesOf 6 (exec (.setPayloadLength .incoming 16#5) idle) = [0xBC#8, 0#8, 0#8, 0#8, 0#8, 0xEF#8] ∧
    refusalOf (exec (.setPayloadLength .incoming 0#5) idle) = some .payloadLengthOutOfRange ∧
    refusalOf (exec (.setPayloadLength .incoming 17#5) idle) = some .payloadLengthOutOfRange := by decide

theorem test_getLengths :
    resultOf (exec (.getPayloadLength .incoming) (tg [0xBC#8, 0#8, 0#8, 0#8, 0#8, 0xE0#8])) = some (.code5 1#5) ∧
    resultOf (exec (.getPayloadLength .incoming) (tg [0xBC#8, 0#8, 0#8, 0#8, 0#8, 0x6F#8])) = some (.code5 16#5) ∧
    resultOf (exec (.getTotalLength .incoming) (tg [0xBC#8, 0#8, 0#8, 0#8, 0#8, 0xEF#8])) = some (.code5 23#5) := by decide

theorem test_repeated :
    bytesOf 1 (exec (.setRepeated .incoming 1#1) (tg [0xBC#8])) = [0x9C#8] ∧
    bytesOf 1 (exec (.setRepeated .incoming 0#1) (tg [0x9C#8])) = [0xBC#8] ∧
    resultOf (exec (.isRepeated .incoming) (tg [0x9C#8])) = some (.flag 1#1) ∧
    resultOf (exec (.isRepeated .incoming) (tg [0xBC#8])) = some (.flag 0#1) := by decide

theorem test_priority :
    bytesOf 1 (exec (.setPriority .incoming 0b10#2) (tg [0xBC#8])) = [0xB8#8] ∧
    bytesOf 1 (exec (.setPriority .incoming 0b00#2) (tg [0x9C#8])) = [0x90#8] ∧
    resultOf (exec (.getPriority .incoming) (tg [0xB4#8])) = some (.code2 0b01#2) := by decide

theorem test_sourceAddress :
    bytesOf 3 (exec (.setSourceAddress .incoming 1#4 2#4 100#8) idle) = [0xBC#8, 0x12#8, 0x64#8] ∧
    resultOf (exec (.getSourceAddress .incoming) (tg [0xBC#8, 0xF0#8, 0x01#8])) = some (.individual 15#4 0#4 1#8) := by decide

theorem test_targetGroup :
    bytesOf 6 (exec (.setTargetGroup .incoming 3#5 1#3 10#8) (tg [0xBC#8, 0#8, 0#8, 0#8, 0#8, 0x61#8])) =
      [0xBC#8, 0#8, 0#8, 0x19#8, 0x0A#8, 0xE1#8] ∧
    resultOf (exec (.getTargetGroup .incoming) (tg [0xBC#8, 0#8, 0#8, 0x0A#8, 0x03#8])) = some (.group 1#5 2#3 3#8) := by decide

theorem test_targetIndividual :
    bytesOf 6 (exec (.setTargetIndividual .incoming 1#4 2#4 100#8) idle) = [0xBC#8, 0#8, 0#8, 0x12#8, 0x64#8, 0x61#8] ∧
    resultOf (exec (.getTargetIndividual .incoming) (tg [0xBC#8, 0#8, 0#8, 0x0A#8, 0x03#8])) =
      some (.individual 0#4 10#4 3#8) := by decide

theorem test_targetType :
    bytesOf 6 (exec (.setTargetType .incoming 0#1) idle) = [0xBC#8, 0#8, 0#8, 0#8, 0#8, 0x61#8] ∧
    resultOf (exec (.isTargetGroup .incoming) (tg [0xBC#8, 0#8, 0#8, 0#8, 0#8, 0x6F#8])) = some (.flag 0#1) := by decide

theorem test_routingCounter :
    bytesOf 6 (exec (.setRoutingCounter .incoming 0#3) (tg [0xBC#8, 0#8, 0#8, 0#8, 0#8, 0xEF#8])) =
      [0xBC#8, 0#8, 0#8, 0#8, 0#8, 0x8F#8] ∧
    resultOf (exec (.getRoutingCounter .incoming) (tg [0xBC#8, 0#8, 0#8, 0#8, 0#8, 0xF1#8])) = some (.code3 7#3) := by decide

/-- Byte 6 = 00, then C0, FC, FE. -/
theorem test_transportControl :
    bytesOf 7 (exec (.setCommType .incoming 0b11#2) idle) = [0xBC#8, 0#8, 0#8, 0#8, 0#8, 0xE1#8, 0xC0#8] ∧
    bytesOf 7 (exec (.setSequenceNumber .incoming 15#4) (tg [0xBC#8, 0#8, 0#8, 0#8, 0#8, 0xE1#8, 0xC0#8])) =
      [0xBC#8, 0#8, 0#8, 0#8, 0#8, 0xE1#8, 0xFC#8] ∧
    bytesOf 7 (exec (.setControlData .incoming 0b10#2) (tg [0xBC#8, 0#8, 0#8, 0#8, 0#8, 0xE1#8, 0xFC#8])) =
      [0xBC#8, 0#8, 0#8, 0#8, 0#8, 0xE1#8, 0xFE#8] := by decide

theorem test_transportControl_get :
    resultOf (exec (.getCommType .incoming) (tg [0xBC#8, 0#8, 0#8, 0#8, 0#8, 0xE1#8, 0x4F#8])) = some (.code2 0b01#2) ∧
    resultOf (exec (.getSequenceNumber .incoming) (tg [0xBC#8, 0#8, 0#8, 0#8, 0#8, 0xE1#8, 0x4F#8])) = some (.code4 3#4) ∧
    resultOf (exec (.getControlData .incoming) (tg [0xBC#8, 0#8, 0#8, 0#8, 0#8, 0xE1#8, 0xFE#8])) = some (.code2 0b10#2) := by
  decide

theorem test_command :
    bytesOf 8 (exec (.setCommand .incoming 0b1111#4) (tg [0xBC#8, 0#8, 0#8, 0#8, 0#8, 0xE1#8, 0x40#8])) =
      [0xBC#8, 0#8, 0#8, 0#8, 0#8, 0xE1#8, 0x43#8, 0xC0#8] ∧
    bytesOf 8 (exec (.setCommand .incoming 0b0010#4) (tg [0xBC#8, 0#8, 0#8, 0#8, 0#8, 0xE1#8, 0xC2#8])) =
      [0xBC#8, 0#8, 0#8, 0#8, 0#8, 0xE1#8, 0xC0#8, 0x80#8] ∧
    resultOf (exec (.getCommand .incoming) (tg [0xBC#8, 0#8, 0#8, 0#8, 0#8, 0xE1#8, 0x01#8, 0x40#8])) =
      some (.code4 0b0101#4) := by decide

theorem test_extendedCommand :
    bytesOf 8 (exec (.setExtendedCommand .incoming 0b010101#6)
      (tg [0xBC#8, 0#8, 0#8, 0#8, 0#8, 0xE1#8, 0x43#8, 0xC0#8])) = [0xBC#8, 0#8, 0#8, 0#8, 0#8, 0xE1#8, 0x43#8, 0xD5#8] ∧
    bytesOf 8 (exec (.setFirstDataByte .incoming 1#6)
      (tg [0xBC#8, 0#8, 0#8, 0#8, 0#8, 0xE1#8, 0x43#8, 0xD5#8])) = [0xBC#8, 0#8, 0#8, 0#8, 0#8, 0xE1#8, 0x43#8, 0xC1#8] := by
  decide

theorem test_extendedCommand_get :
    resultOf (exec (.getExtendedCommand .incoming) (tg [0xBC#8, 0#8, 0#8, 0#8, 0#8, 0xE1#8, 0x43#8, 0xC1#8])) =
      some (.code6 1#6) ∧
    resultOf (exec (.getFirstDataByte .incoming) (tg [0xBC#8, 0#8, 0#8, 0#8, 0#8, 0xE1#8, 0x43#8, 0xD5#8])) =
      some (.code6 0b010101#6) := by decide

/-- DECODE_APP_COMMAND of a telegram with these bytes 5 to 7. -/
def app (b5 b6 b7 : Byte) : Option Result :=
  resultOf (exec (.decodeAppCommand .incoming) (tg [0xBC#8, 0#8, 0#8, 0#8, 0#8, b5, b6, b7]))

/-- The table of 95_test_vectors.md 2.2. -/
theorem test_decodeAppCommand_a :
    app 0xE1#8 0x00#8 0x00#8 = some (.code5 1#5) ∧
    app 0xE1#8 0x00#8 0x40#8 = some (.code5 2#5) ∧
    app 0xE1#8 0x00#8 0xBF#8 = some (.code5 3#5) ∧
    app 0xE1#8 0x00#8 0xC0#8 = some (.code5 4#5) ∧
    app 0xE1#8 0x01#8 0x00#8 = some (.code5 5#5) ∧
    app 0xE1#8 0x01#8 0x40#8 = some (.code5 6#5) ∧
    app 0xE1#8 0x01#8 0x80#8 = some (.code5 0#5) ∧
    app 0xE1#8 0x02#8 0x00#8 = some (.code5 7#5) := by decide

/-- The table of 95_test_vectors.md 2.2. The next rows. -/
theorem test_decodeAppCommand_b :
    app 0xE1#8 0x02#8 0x40#8 = some (.code5 8#5) ∧
    app 0xE1#8 0x02#8 0x80#8 = some (.code5 9#5) ∧
    app 0xE1#8 0x02#8 0xC0#8 = some (.code5 0#5) ∧
    app 0xE1#8 0x4F#8 0x00#8 = some (.code5 10#5) ∧
    app 0xE1#8 0x03#8 0x40#8 = some (.code5 11#5) ∧
    app 0xE1#8 0x03#8 0x80#8 = some (.code5 12#5) ∧
    app 0xE1#8 0x03#8 0xC0#8 = some (.code5 0#5) ∧
    app 0xE1#8 0x03#8 0xD1#8 = some (.code5 13#5) := by decide

/-- The table of 95_test_vectors.md 2.2. The next rows. -/
theorem test_decodeAppCommand_c :
    app 0xE1#8 0x03#8 0xD2#8 = some (.code5 14#5) ∧
    app 0xE1#8 0x03#8 0xD3#8 = some (.code5 0#5) ∧
    app 0xE1#8 0x03#8 0xD5#8 = some (.code5 15#5) ∧
    app 0xE1#8 0x03#8 0xD6#8 = some (.code5 16#5) ∧
    app 0xE1#8 0x03#8 0xD7#8 = some (.code5 17#5) ∧
    app 0xE1#8 0x80#8 0x80#8 = some (.code5 0#5) ∧
    app 0xE1#8 0xC2#8 0x00#8 = some (.code5 0#5) ∧
    app 0xE0#8 0x00#8 0x80#8 = some (.code5 0#5) := by decide

/-! ## Checksum (95_test_vectors.md 1.1, 2.3) -/

theorem test_calcChecksum :
    resultOf (exec (.calcChecksum .incoming) (tg [0xBC#8, 0x11#8, 0x05#8, 0x0A#8, 0x03#8, 0xE1#8, 0x00#8, 0x81#8])) =
      some (.byte 0x3E#8) ∧
    resultOf (exec (.calcChecksum .incoming) (tg (0xBC#8 :: [0xFF#8, 0xFF#8, 0xFF#8, 0xFF#8, 0xEF#8] ++
      List.replicate 16 0xFF#8))) = some (.byte 0xAC#8) := by decide

theorem test_createChecksum :
    bytesOf 9 (exec (.createChecksum .incoming) idle) = [0xBC#8, 0#8, 0#8, 0#8, 0#8, 0xE1#8, 0#8, 0#8, 0xA2#8] := by decide

/-- The double error of R156 verifies. -/
theorem test_verifyChecksum :
    resultOf (exec (.verifyChecksum .incoming) idle) = some (.flag 0#1) ∧
    resultOf (exec (.verifyChecksum .incoming)
      (tg [0xBC#8, 0x01#8, 0x11#8, 0x0A#8, 0x03#8, 0xE1#8, 0x00#8, 0x81#8, 0x3A#8])) = some (.flag 1#1) := by decide

theorem test_getChecksum :
    resultOf (exec (.getChecksum .incoming) (tg [0xBC#8, 0x11#8, 0x05#8, 0x11#8, 0x01#8, 0x60#8, 0xCE#8, 0xE9#8])) =
      some (.byte 0xE9#8) := by decide

/-! ## Datapoints (95_test_vectors.md 1.5, 2.4) -/

theorem test_getBool :
    resultOf (exec (.getBool .incoming) (tg [0xBC#8, 0#8, 0#8, 0#8, 0#8, 0xE1#8, 0#8, 0x81#8])) = some (.flag 1#1) ∧
    resultOf (exec (.getBool .incoming) (tg [0xBC#8, 0#8, 0#8, 0#8, 0#8, 0xE1#8, 0#8, 0xBE#8])) = some (.flag 0#1) ∧
    resultOf (exec (.getBool .incoming) (tg [0xBC#8, 0#8, 0#8, 0#8, 0#8, 0xE2#8, 0#8, 0x81#8])) = some (.flag 0#1) := by decide

theorem test_1ByteInt :
    bytesOf 9 (exec (.set1ByteInt .incoming 0xC8#8) idle) = [0xBC#8, 0#8, 0#8, 0#8, 0#8, 0xE2#8, 0#8, 0#8, 0xC8#8] ∧
    resultOf (exec (.get1ByteInt .incoming) (tg [0xBC#8, 0#8, 0#8, 0#8, 0#8, 0xE2#8, 0#8, 0#8, 0xC8#8])) =
      some (.byte 0xC8#8) ∧
    resultOf (exec (.get1ByteInt .incoming) (tg [0xBC#8, 0#8, 0#8, 0#8, 0#8, 0xE3#8, 0#8, 0#8, 0xC8#8])) =
      some (.byte 0x00#8) := by decide

/-- The bytes SET_2BYTE_FLOAT writes, from the encoder of the instance. -/
def enc (f : BitVec 32) : Option (Byte × Byte) := float16Encode float16Ties float16Scale f

/-- The value stands in bytes 8 and 9 and the length becomes 4. -/
theorem test_set2ByteFloat : bytesOf 10 (exec (.set2ByteFloat .incoming 0x442F0000#32) idle) =
    [0xBC#8, 0#8, 0#8, 0#8, 0#8, 0xE3#8, 0#8, 0#8, 0x34#8, 0x46#8] := by decide

/-- The default column of the encoder table. -/
theorem test_set2ByteFloat_a :
    enc 0x00000000#32 = some (0x00#8, 0x00#8) ∧
    enc 0x80000000#32 = some (0x00#8, 0x00#8) ∧
    enc 0x3C23D70A#32 = some (0x00#8, 0x01#8) ∧
    enc 0xBF800000#32 = some (0x87#8, 0x9C#8) ∧
    enc 0x41A40000#32 = some (0x0C#8, 0x01#8) ∧
    enc 0x442F0000#32 = some (0x34#8, 0x46#8) ∧
    enc 0xC3888000#32 = some (0xA1#8, 0x56#8) ∧
    enc 0x3E000000#32 = some (0x00#8, 0x0D#8) := by decide

/-- The default column of the encoder table. The next rows. -/
theorem test_set2ByteFloat_b :
    enc 0xBE000000#32 = some (0x87#8, 0xF3#8) ∧
    enc 0x3BA3D70A#32 = some (0x00#8, 0x00#8) ∧
    enc 0xBA83126F#32 = some (0x00#8, 0x00#8) ∧
    enc 0x41A3C28F#32 = some (0x07#8, 0xFF#8) ∧
    enc 0x41A3D70A#32 = some (0x0C#8, 0x00#8) ∧
    enc 0xC1A3EB85#32 = some (0x8C#8, 0x00#8) ∧
    enc 0x4923C28F#32 = some (0x7F#8, 0xFF#8) ∧
    enc 0xC923C280#32 = some (0xF8#8, 0x01#8) := by decide

/-- The other columns, and the inputs that draw. -/
theorem test_float16Encode_parameters :
    float16Encode .even .exact 0x3E000000#32 = some (0x00#8, 0x0C#8) ∧
    float16Encode .away .binary32 0x3BA3D70A#32 = some (0x00#8, 0x01#8) ∧
    float16Encode .away .binary32 0xC1A3EB85#32 = some (0x8B#8, 0xFF#8) ∧
    float16Encode .even .binary32 0x3C75C28F#32 = some (0x00#8, 0x02#8) ∧
    float16Encode .away .exact 0x4923C290#32 = none ∧ float16Encode .away .exact 0x7FC00000#32 = none ∧
    float16Encode .away .exact 0xFF800000#32 = none := by decide

/-- The decoder table, in hundredths. -/
theorem test_get2ByteFloat : ∀ p ∈ [
    ((0x07#8, 0xFF#8), (2047 : Int)), ((0x87#8, 0xFF#8), -1), ((0x80#8, 0x00#8), -2048), ((0x0C#8, 0x33#8), 2150),
    ((0x34#8, 0x46#8), 70016), ((0x8A#8, 0x24#8), -3000), ((0x7F#8, 0xFF#8), 67076096), ((0xF8#8, 0x00#8), -67108864)],
    resultOf (exec (.get2ByteFloat .incoming) (tg [0xBC#8, 0#8, 0#8, 0#8, 0#8, 0xE3#8, 0#8, 0#8, p.1.1, p.1.2])) =
      some (.hundredths p.2) := by decide

theorem test_4ByteFloat :
    bytesOf 12 (exec (.set4ByteFloat .incoming 0x7FC00001#32) idle) =
      [0xBC#8, 0#8, 0#8, 0#8, 0#8, 0xE5#8, 0#8, 0#8, 0x7F#8, 0xC0#8, 0x00#8, 0x01#8] ∧
    resultOf (exec (.get4ByteFloat .incoming) (tg [0xBC#8, 0#8, 0#8, 0#8, 0#8, 0xE5#8, 0#8, 0#8, 0x41#8, 0xAC#8])) =
      some (.word32 0x41AC0000#32) ∧
    resultOf (exec (.get4ByteFloat .incoming) (tg [0xBC#8, 0#8, 0#8, 0#8, 0#8, 0xE3#8, 0#8, 0#8, 0x41#8, 0xAC#8])) =
      some (.word32 0#32) := by decide

def knx : Vector Byte 14 :=
  #v[0x4B#8, 0x4E#8, 0x58#8, 0#8, 0#8, 0#8, 0#8, 0#8, 0#8, 0#8, 0#8, 0#8, 0#8, 0#8]

theorem test_14ByteText :
    bytesOf 23 (exec (.set14ByteText .incoming knx) idle) =
      [0xBC#8, 0#8, 0#8, 0#8, 0#8, 0xEF#8, 0#8, 0#8, 0x4B#8, 0x4E#8, 0x58#8] ++ List.replicate 12 0#8 ∧
    resultOf (exec (.get14ByteText .incoming) (tg [0xBC#8, 0#8, 0#8, 0#8, 0#8, 0xEF#8, 0#8, 0#8, 0x4B#8, 0x4E#8, 0x58#8])) =
      some (.text knx) := by decide

theorem test_time :
    bytesOf 11 (exec (.setTime .incoming 3#3 14#5 30#6 5#6) idle) =
      [0xBC#8, 0#8, 0#8, 0#8, 0#8, 0xE4#8, 0#8, 0#8, 0x6E#8, 0x1E#8, 0x05#8] ∧
    resultOf (exec (.getTime .incoming) (tg [0xBC#8, 0#8, 0#8, 0#8, 0#8, 0xE4#8, 0#8, 0#8, 0x6E#8, 0xDE#8, 0xC5#8])) =
      some (.time 3#3 14#5 30#6 5#6) ∧
    resultOf (exec (.getTime .incoming) (tg [0xBC#8, 0#8, 0#8, 0#8, 0#8, 0xE5#8, 0#8, 0#8, 0x6E#8, 0x1E#8, 0x05#8])) =
      some (.time 0#3 0#5 0#6 0#6) := by decide

/-! ## Framer (95_test_vectors.md 1.4, 1.10, 2.5) -/

/-- CLASSIFY_BYTE and IS_FRAME_START of a byte. -/
def cls (b : Byte) : Option Result × Option Result :=
  (resultOf (exec (.classifyByte b) idle), resultOf (exec (.isFrameStart b) idle))

/-- The table of 95_test_vectors.md 1.4. -/
theorem test_classify_a :
    cls 0x9C#8 = (some (.code2 1#2), some (.flag 1#1)) ∧
    cls 0xB4#8 = (some (.code2 1#2), some (.flag 1#1)) ∧
    cls 0xBD#8 = (some (.code2 0#2), some (.flag 0#1)) ∧
    cls 0xBE#8 = (some (.code2 0#2), some (.flag 0#1)) ∧
    cls 0xFC#8 = (some (.code2 0#2), some (.flag 0#1)) ∧
    cls 0x3C#8 = (some (.code2 0#2), some (.flag 0#1)) ∧
    cls 0xAC#8 = (some (.code2 0#2), some (.flag 0#1)) ∧
    cls 0x03#8 = (some (.code2 2#2), some (.flag 0#1)) ∧
    cls 0x8B#8 = (some (.code2 0#2), some (.flag 0#1)) ∧
    cls 0x0B#8 = (some (.code2 0#2), some (.flag 0#1)) := by decide

theorem test_readByteTimeout :
    channelOf (exec .readByteTimeout idle) = some (.rd, [], []) ∧
    resultOf (step (at_ .rd [0x8B#8])) = some (.readByte 1#1 0x8B#8) ∧
    resultOf (step ((at_ .rd []).setEnv [.timeout])) = some (.readByte 0#1 0x00#8) ∧
    resultOf (step ((at_ .rd []).setEnv [.deliver 0x5A#8])) = some (.readByte 1#1 0x5A#8) := by decide

theorem test_acknowledgements :
    channelOf (step (at_ (.ackTx 0x11#8) [])) = some (.dly .acknowledged, [], [0x11#8]) ∧
    channelOf (exec .sendAck idle) = some (.ackTx 0x11#8, [], []) ∧
    channelOf (exec .sendNotAddressed idle) = some (.ackTx 0x10#8, [], []) := by decide

/-- The CLEAR telegram is sent with tags 80 to 87 and 48: its last pair is 48 and byte 8. -/
theorem test_sendFrame :
    channelOf (exec (.sendFrame .incoming) idle) = some (.tx .incoming 0 .tag .host, [], []) ∧
    channelOf (step (at_ (.tx .incoming 7 .tag .host) [])) = some (.tx .incoming 7 .data .host, [], [0x87#8]) ∧
    channelOf (step (at_ (.tx .incoming 8 .tag .host) [])) = some (.tx .incoming 8 .data .host, [], [0x48#8]) ∧
    channelOf (step (at_ (.tx .incoming 8 .data .host) [])) = some (.conf .host, [], [0x00#8]) := by decide

theorem test_confirmation :
    channelOf (step (at_ (.conf .host) [0x11#8, 0x8B#8])) = some (.conf .host, [0x8B#8], []) ∧
    channelOf (step (at_ (.conf .host) [0x8B#8, 0x0B#8])) = some (.dly (.confirmed .host 1#1), [0x0B#8], []) ∧
    channelOf (step (at_ (.conf .host) [0x0B#8])) = some (.dly (.confirmed .host 0#1), [], []) ∧
    resultOf (step (at_ (.dly (.confirmed .host 1#1)) [])) = some (.flag 1#1) := by decide

/-! ## Session and reception (95_test_vectors.md 1.6, 2.6, 2.7) -/

theorem test_ownAddress :
    resultOf (exec .getOwnAddress idle) = some (.individual 1#4 1#4 5#8) ∧
    (match exec (.setOwnAddress 1#4 2#4 100#8) idle with
      | .next t => t.ownAddr
      | .fault _ | .refused _ => 0#16) = 0x1264#16 := by decide

/-- A duplicate is stored; a full set is not changed. -/
theorem test_addListenGroup :
    (match exec (.addListenGroup 1#5 2#3 3#8) idle with
      | .next t => (t.listen[1], t.listenCount, t.result)
      | .fault _ | .refused _ => (0#16, 0#6, none)) = (0x0A03#16, 2#6, some (.flag 1#1)) ∧
    (match exec (.addListenGroup 1#5 0#3 49#8) (idle.setListenCount 48#6) with
      | .next t => (t.listenCount, t.result)
      | .fault _ | .refused _ => (0#6, none)) = (48#6, some (.flag 0#1)) := by decide

theorem test_isListeningGroup :
    resultOf (exec (.isListeningGroup 1#5 2#3 3#8) idle) = some (.flag 1#1) ∧
    resultOf (exec (.isListeningGroup 1#5 2#3 4#8) idle) = some (.flag 0#1) ∧
    resultOf (exec .getListenCount idle) = some (.code6 1#6) := by decide

theorem test_broadcast_and_status :
    resultOf (exec .getListenBroadcast (idle.setListenBcast 1#1)) = some (.flag 1#1) ∧
    (match exec (.setListenBroadcast 1#1) idle with
      | .next t => t.listenBcast
      | .fault _ | .refused _ => 0#1) = 1#1 ∧
    resultOf (exec .getRxStatus (idle.setRxTimedOut 1#1)) = some (.rxStatus 1#1 0#1) := by decide

/-- IS_OF_INTEREST with this own address, listen count, broadcast flag, byte 5 and target bytes. -/
def interest (own : BitVec 16) (count : BitVec 6) (bcast : BitVec 1) (b5 b3 b4 : Byte) : Option Result :=
  resultOf (exec (.isOfInterest .incoming)
    ((((tg [0xBC#8, 0#8, 0#8, b3, b4, b5]).setOwnAddr own).setListenCount count).setListenBcast bcast))

/-- The table of 95_test_vectors.md 1.6. -/
theorem test_isOfInterest_a :
    interest 0x1264#16 1#6 0#1 0xE1#8 0x0A#8 0x03#8 = some (.flag 1#1) ∧
    interest 0x1105#16 1#6 0#1 0xE1#8 0x0A#8 0x04#8 = some (.flag 0#1) ∧
    interest 0x1105#16 1#6 1#1 0x61#8 0x11#8 0x05#8 = some (.flag 1#1) ∧
    interest 0x1105#16 0#6 0#1 0x61#8 0x11#8 0x06#8 = some (.flag 0#1) ∧
    interest 0x1105#16 1#6 0#1 0x61#8 0x0A#8 0x03#8 = some (.flag 0#1) ∧
    interest 0x1105#16 0#6 0#1 0xE1#8 0x00#8 0x00#8 = some (.flag 0#1) ∧
    interest 0x1105#16 0#6 1#1 0xE1#8 0x00#8 0x00#8 = some (.flag 1#1) ∧
    interest 0x0000#16 0#6 1#1 0x61#8 0x00#8 0x00#8 = some (.flag 1#1) ∧
    interest 0x1105#16 0#6 1#1 0x61#8 0x00#8 0x00#8 = some (.flag 0#1) := by decide

/-- POLL_EVENT's classification, a primitive a step: nothing, a queue that holds a byte, then reset indication, other byte,
frame start. -/
theorem test_pollEvent_classify :
    resultOf (step (at_ (.pCls .available) [])) = some (.code3 0#3) ∧
    channelOf (step (at_ (.pCls .available) [0x03#8])) = some (.pCls .peek, [0x03#8], []) ∧
    channelOf (step (at_ (.pCls .peek) [0x03#8, 0x03#8])) = some (.pCls (.read 1#3), [0x03#8, 0x03#8], []) ∧
    channelOf (step (at_ (.pCls .peek) [0x8B#8])) = some (.pCls (.read 4#3), [0x8B#8], []) ∧
    channelOf (step (at_ (.pCls .peek) [0xBC#8])) = some (.pRx 0, [0xBC#8], []) := by decide

/-- The classified byte is consumed, and the event is the one decided at the peek. -/
theorem test_pollEvent_consume :
    channelOf (step (at_ (.pCls (.read 1#3)) [0x03#8, 0x03#8])) = some (.idle, [0x03#8], []) ∧
    resultOf (step (at_ (.pCls (.read 1#3)) [0x03#8, 0x03#8])) = some (.code3 1#3) ∧
    resultOf (step (at_ (.pCls (.read 4#3)) [0x8B#8])) = some (.code3 4#3) := by decide

/-- Scenario A's last byte ends the assembly with interest; its acknowledgement is 11, then the event is 2. -/
theorem test_pollEvent_assembly :
    channelOf (step (((tg [0xBC#8, 0x11#8, 0x01#8, 0x0A#8, 0x03#8, 0xE1#8, 0x00#8, 0x81#8]).setSeq (.pRx 8)).setRxq
      [0x3A#8])) = some (.pAck 1#1, [], []) ∧
    channelOf (step (at_ (.pAck 0#1) [])) = some (.dly (.pollAcknowledged 0#1), [], [0x10#8]) ∧
    resultOf (step (at_ (.pNcd 1#1) [])) = some (.code3 2#3) ∧ resultOf (step (at_ (.pNcd 0#1) [])) = some (.code3 3#3) := by
  decide

/-- The confirmation C1 of 95_test_vectors.md 2.7. -/
theorem test_pollEvent_confirmation :
    (match step ((tg [0xB0#8, 0x11#8, 0x01#8, 0x11#8, 0x05#8, 0x61#8, 0x4F#8, 0x00#8, 0x65#8]).setSeq (.pNcd 1#1)) with
      | .next t => t.bytesFrom .reply 0 9
      | .fault _ | .refused _ => []) = [0xBC#8, 0x11#8, 0x05#8, 0x11#8, 0x01#8, 0x60#8, 0xCE#8, 0xE9#8, 0x00#8] := by decide

/-! ## Rows of the channel and of the application field -/

theorem test_receiveRows :
    channelOf (exec (.rxFrameStart 1#1 0b01#2) idle) = some (.idle, [0xB4#8], []) ∧
    channelOf (exec .rxResetIndication idle) = some (.idle, [0x03#8], []) ∧
    channelOf (exec .rxPositiveConfirmation (at_ (.conf .host) [])) = some (.dly (.confirmed .host 1#1), [], []) ∧
    channelOf (exec .rxNegativeConfirmation (at_ (.conf .host) [])) = some (.dly (.confirmed .host 0#1), [], []) := by decide

theorem test_transmitRows :
    channelOf (exec (.txTagContinue 21#6) idle) = some (.idle, [], [0x95#8]) ∧
    channelOf (exec (.txTagEnd 7#6) idle) = some (.idle, [], [0x47#8]) ∧
    channelOf (exec .txAck idle) = some (.idle, [], [0x11#8]) ∧
    channelOf (exec .txNotAddressed idle) = some (.idle, [], [0x10#8]) := by decide

/-- The codes of R82. -/
theorem test_apciRows : ∀ p ∈ [
    (Instr.apciGroupRead 0#6, 1#5), (Instr.apciGroupResponse 0#6, 2#5), (Instr.apciGroupWrite 1#6, 3#5),
    (Instr.apciIndividualAddrWrite 0#6, 4#5), (Instr.apciIndividualAddrRead 0#6, 5#5),
    (Instr.apciIndividualAddrResponse 0#6, 6#5), (Instr.apciMemoryRead 1#6, 7#5), (Instr.apciMemoryResponse 1#6, 8#5),
    (Instr.apciMemoryWrite 1#6, 9#5), (Instr.apciDeviceDescriptorRead 0#6, 10#5),
    (Instr.apciDeviceDescriptorResponse 0#6, 11#5), (Instr.apciRestart 0#6, 12#5), (Instr.apciAuthorizeRequest, 13#5),
    (Instr.apciAuthorizeResponse, 14#5), (Instr.apciPropertyRead, 15#5), (Instr.apciPropertyResponse, 16#5),
    (Instr.apciPropertyWrite, 17#5)], resultOf (exec p.1 idle) = some (.code5 p.2) := by decide

/-- Busy comes before any operand check (95_test_vectors.md 2.8). -/
theorem test_busy : refusalOf (exec (.getByte .incoming 23#5) (at_ .rd [])) = some .busy := by decide

/-- The codes of R252. -/
theorem test_refusal_codes : Refusal.busy.code = some 0 ∧ Refusal.indexOutOfRange.code = some 1 ∧
    Refusal.payloadLengthOutOfRange.code = some 2 := by decide

/-! ## Witnesses: a concrete state and operands that meet the hypotheses of each statement

The statements of 41 to 43 about one command have one hypothesis, that SEQ is IDLE; `idle` meets it. Where a statement has
clauses by an operand's range, both ends of each range are here. -/

theorem witness_ClearWritesDefaultTelegram : idle.seq = .idle := rfl

theorem witness_RawByteAccess :
    idle.seq = .idle ∧ (0#5).toNat ≤ 22 ∧ (22#5).toNat ≤ 22 ∧ 23 ≤ (23#5).toNat ∧ 23 ≤ (31#5).toNat := by decide

theorem witness_LengthOperations :
    idle.seq = .idle ∧ (1 ≤ (1#5).toNat ∧ (1#5).toNat ≤ 16) ∧ (1 ≤ (16#5).toNat ∧ (16#5).toNat ≤ 16) ∧
    ((0#5).toNat = 0 ∨ 17 ≤ (0#5).toNat) ∧ ((17#5).toNat = 0 ∨ 17 ≤ (17#5).toNat) ∧
    ((31#5).toNat = 0 ∨ 17 ≤ (31#5).toNat) ∧ (∃ t, exec (.setPayloadLength .incoming 1#5) idle = .next t) ∧
    ∃ t, exec (.setPayloadLength .reply 16#5) idle = .next t :=
  ⟨rfl, by decide, by decide, by decide, by decide, by decide, ⟨_, rfl⟩, ⟨_, rfl⟩⟩

theorem witness_ControlOctetFields : idle.seq = .idle := rfl
theorem witness_AddressSetters : idle.seq = .idle := rfl

theorem witness_AddressGetters :
    idle.seq = .idle ∧ ∃ t, exec (.setSourceAddress .incoming 15#4 0#4 1#8) idle = .next t := ⟨rfl, _, rfl⟩

theorem witness_ByteFiveFields : idle.seq = .idle := rfl
theorem witness_TransportControlFields : idle.seq = .idle := rfl
theorem witness_ApplicationControlFields : idle.seq = .idle := rfl
theorem witness_DecodeAppCommandNames : idle.seq = .idle := rfl

theorem witness_SharedFields :
    let s := tg [0xBC#8, 0#8, 0#8, 0#8, 0#8, 0xE1#8, 0x43#8, 0xC0#8]
    s.seq = .idle ∧ exec (.getControlData .incoming) s = .next (s.setResult (some (.code2 0b11#2))) ∧
    exec (.getCommand .incoming) s = .next (s.setResult (some (.code4 0b1111#4))) := ⟨rfl, rfl, rfl⟩

theorem witness_SettersKeepOtherBits :
    ((Instr.setByte .incoming 22#5 0xFF#8).isFieldSetter = true ∧
      ∃ t, exec (.setByte .incoming 22#5 0xFF#8) idle = .next t) ∧
    (Instr.setPayloadLength .reply 16#5).isFieldSetter = true ∧
      ∃ t, exec (.setPayloadLength .reply 16#5) idle = .next t := ⟨⟨rfl, _, rfl⟩, rfl, _, rfl⟩

theorem witness_FieldsReadBack :
    (∃ t, exec (.setByte .incoming 22#5 0x55#8) idle = .next t) ∧
    (∃ t, exec (.setPayloadLength .incoming 1#5) idle = .next t) ∧
    (∃ t, exec (.setPayloadLength .reply 16#5) idle = .next t) ∧
    (∃ t, exec (.setSourceAddress .incoming 15#4 15#4 255#8) idle = .next t) ∧
    (∃ t, exec (.setFirstDataByte .incoming 63#6) idle = .next t) ∧ (∃ t, exec (.setRepeated .incoming 1#1) idle = .next t) ∧
    (∃ t, exec (.setPriority .incoming 0b10#2) idle = .next t) ∧
    (∃ t, exec (.setTargetGroup .incoming 31#5 7#3 255#8) idle = .next t) ∧
    (∃ t, exec (.setTargetIndividual .incoming 15#4 15#4 255#8) idle = .next t) ∧
    (∃ t, exec (.setTargetType .incoming 0#1) idle = .next t) ∧
    (∃ t, exec (.setRoutingCounter .incoming 7#3) idle = .next t) ∧
    (∃ t, exec (.setCommType .incoming 0b11#2) idle = .next t) ∧
    (∃ t, exec (.setSequenceNumber .incoming 15#4) idle = .next t) ∧
    (∃ t, exec (.setControlData .incoming 0b10#2) idle = .next t) ∧
    (∃ t, exec (.setCommand .incoming 0b1111#4) idle = .next t) ∧
    ∃ t, exec (.setExtendedCommand .incoming 63#6) idle = .next t :=
  ⟨⟨_, rfl⟩, ⟨_, rfl⟩, ⟨_, rfl⟩, ⟨_, rfl⟩, ⟨_, rfl⟩, ⟨_, rfl⟩, ⟨_, rfl⟩, ⟨_, rfl⟩, ⟨_, rfl⟩, ⟨_, rfl⟩, ⟨_, rfl⟩, ⟨_, rfl⟩,
    ⟨_, rfl⟩, ⟨_, rfl⟩, ⟨_, rfl⟩, _, rfl⟩

theorem witness_ChecksumOperations : idle.seq = .idle := rfl

theorem witness_ChecksumRoundTrip : idle.seq = .idle ∧ ∃ t, exec (.createChecksum .incoming) idle = .next t := ⟨rfl, _, rfl⟩

/-- The CLEAR telegram with its checksum A2 at byte 8. -/
def sealed : State := tg [0xBC#8, 0#8, 0#8, 0#8, 0#8, 0xE1#8, 0#8, 0#8, 0xA2#8]

/-- Bytes 0 and 8, the first and the last, with bit 0, and byte 5 with bit 4, its lowest allowed. -/
theorem witness_ChecksumDetection :
    sealed.seq = .idle ∧
    sealed.byte .incoming (6 + sealed.payloadLength .incoming) = sealed.xorBelow .incoming (6 + sealed.payloadLength .incoming) ∧
    0 ≤ 6 + sealed.payloadLength .incoming ∧ 8 ≤ 6 + sealed.payloadLength .incoming ∧ (5 = 5 → 4 ≤ 4) ∧ (0 = 5 → 4 ≤ 0) ∧
    (8 = 5 → 4 ≤ 0) ∧ 0 < 8 ∧ 4 < 8 := by decide

/-- Both flips run, one after the other. -/
theorem witness_ChecksumDetection_runs :
    (∃ t u, exec (.setByte .incoming (BitVec.ofNat 5 0) (sealed.byte .incoming 0 ^^^ (1#8 <<< 0))) sealed = .next t ∧
      exec (.setByte .incoming (BitVec.ofNat 5 8) (sealed.byte .incoming 8 ^^^ (1#8 <<< 0))) t = .next u) ∧
    ∃ t, exec (.setByte .incoming (BitVec.ofNat 5 5) (sealed.byte .incoming 5 ^^^ (1#8 <<< 4))) sealed = .next t :=
  ⟨⟨_, _, rfl, rfl⟩, _, rfl⟩

theorem witness_DatapointEncoders : idle.seq = .idle := rfl

/-- Each decoder's own length, 2, 3, 6, 16 and 5. -/
theorem witness_DatapointDecoders :
    idle.seq = .idle ∧ ∀ p ∈ [(0xE1#8, 2), (0xE2#8, 3), (0xE5#8, 6), (0xEF#8, 16), (0xE4#8, 5)],
      (tg [0xBC#8, 0#8, 0#8, 0#8, 0#8, p.1]).seq = .idle ∧
      (tg [0xBC#8, 0#8, 0#8, 0#8, 0#8, p.1]).payloadLength .incoming = p.2 := by decide

theorem witness_DatapointsReadBack :
    (∃ t, exec (.set1ByteInt .incoming 0xC8#8) idle = .next t) ∧
    (∃ t, exec (.set4ByteFloat .incoming 0x41AC0000#32) idle = .next t) ∧
    (∃ t, exec (.set14ByteText .incoming knx) idle = .next t) ∧
    (∃ t, exec (.setTime .incoming 7#3 31#5 63#6 63#6) idle = .next t) ∧
    idle.payloadLength .incoming = 2 ∧ ∃ t, exec (.setFirstDataByte .incoming 1#6) idle = .next t :=
  ⟨⟨_, rfl⟩, ⟨_, rfl⟩, ⟨_, rfl⟩, ⟨_, rfl⟩, rfl, _, rfl⟩

/-- 0.0 at E = 0, 700.0 at E = 6 and 670760.96, the largest, at E = 15. -/
theorem witness_Float16Encodes : idle.seq = .idle ∧ ∀ p ∈ [(0x00000000#32, 0), (0x442F0000#32, 6), (0x4923C28F#32, 15)],
    b32Finite p.1 = true ∧ p.2 ≤ 15 ∧ 100 * b32Magnitude p.1 ≤ 2047 * 2 ^ (149 + p.2) ∧
    ∀ e, e < p.2 → 2047 * 2 ^ (149 + e) < 100 * b32Magnitude p.1 := by decide

/-- A NaN, an infinity and the first value out of range. -/
theorem witness_Float16Draws :
    idle.seq = .idle ∧ b32Finite 0x7FC00000#32 = false ∧ b32Finite 0xFF800000#32 = false ∧
    2047 * 2 ^ (149 + 15) < 100 * b32Magnitude 0x4923C290#32 := by decide

theorem witness_Float16Decodes : idle.seq = .idle := rfl

/-- 700.0 comes back as 700.16. -/
theorem witness_Float16RoundTrip :
    b32Finite 0x442F0000#32 = true ∧ 100 * b32Magnitude 0x442F0000#32 ≤ 2047 * 2 ^ (149 + 6) ∧
    (∀ e, e < 6 → 2047 * 2 ^ (149 + e) < 100 * b32Magnitude 0x442F0000#32) ∧
    ∃ t u, exec (.set2ByteFloat .incoming 0x442F0000#32) idle = .next t ∧ exec (.get2ByteFloat .incoming) t = .next u ∧
      u.result = some (.hundredths 70016) :=
  ⟨by decide, by decide, by decide, _, _, rfl, rfl, by decide⟩

/-- 0.0, the second clause. -/
theorem witness_Float16RoundTrip_zero :
    b32Finite 0x00000000#32 = true ∧ b32Magnitude 0x00000000#32 = 0 ∧
    ∃ t u, exec (.set2ByteFloat .incoming 0x00000000#32) idle = .next t ∧ exec (.get2ByteFloat .incoming) t = .next u ∧
      u.result = some (.hundredths 0) :=
  ⟨by decide, by decide, _, _, rfl, rfl, by decide⟩

theorem witness_ByteClassifier : idle.seq = .idle := rfl

/-- A queued byte; a delivery; a timeout; an empty queue with no turn to come. -/
theorem witness_ReadByteTimeout :
    ((at_ .idle [0x8B#8]).seq = .idle ∧ (at_ .idle [0x8B#8]).rxq = 0x8B#8 :: [] ∧ (at_ .idle [0x8B#8]).env = []) ∧
    ((idle.setEnv [.deliver 0x5A#8]).seq = .idle ∧ (idle.setEnv [.deliver 0x5A#8]).rxq = [] ∧
      (idle.setEnv [.deliver 0x5A#8]).env = .deliver 0x5A#8 :: []) ∧
    ((idle.setEnv [.timeout]).rxq = [] ∧ (idle.setEnv [.timeout]).env = .timeout :: []) ∧
    (idle.rxq = [] ∧ idle.env = []) ∧ (∃ t, exec .readByteTimeout idle = .next t) ∧
    ∀ x ∈ [Turn.block, .deliver 0x5A#8, .timeout],
      ((at_ .idle [0x8B#8]).setEnv [x]).seq = .idle ∧ ((at_ .idle [0x8B#8]).setEnv [x]).rxq = 0x8B#8 :: [] ∧
      ((at_ .idle [0x8B#8]).setEnv [x]).env = x :: [] :=
  ⟨⟨rfl, rfl, rfl⟩, ⟨rfl, rfl, rfl⟩, ⟨rfl, rfl⟩, ⟨rfl, rfl⟩, ⟨_, rfl⟩, fun _ _ => ⟨rfl, rfl, rfl⟩⟩

theorem witness_AcknowledgementsSent : idle.seq = .idle ∧ idle.env = [] := ⟨rfl, rfl⟩

/-- 18 bytes with a delivery in between, so that 17 blocks and one delivery come before the last block. -/
theorem witness_TransmissionWritesTaggedTelegram :
    let turns := .deliver 0x8B#8 :: List.replicate 17 Turn.block
    let s := (at_ (.tx .incoming 0 .tag .host) []).setEnv (turns ++ [.block])
    s.seq = .tx .incoming 0 .tag .host ∧ s.env = turns ++ [.block] ∧ turns.all Turn.quiet = true ∧
    turns.count .block + 1 = 2 * s.totalLength .incoming := ⟨rfl, rfl, rfl, rfl⟩

theorem witness_ConfirmationWait :
    ((at_ (.conf .host) [0x8B#8]).seq = .conf .host ∧ (at_ (.conf .host) [0x8B#8]).env = [] ∧
      (at_ (.conf .host) [0x8B#8]).rxq = 0x8B#8 :: []) ∧
    (((at_ (.conf .pollEvent) []).setEnv [.deliver 0x0B#8]).env = .deliver 0x0B#8 :: [] ∧
      ((at_ (.conf .pollEvent) []).setEnv [.deliver 0x0B#8]).rxq = []) ∧
    ((at_ (.conf .pollEvent) []).setEnv [.timeout]).env = .timeout :: [] ∧
    ((at_ (.conf .host) [0x11#8]).setEnv [.timeout]).rxq ≠ [] := ⟨⟨rfl, rfl, rfl⟩, ⟨rfl, rfl⟩, rfl, by decide⟩

theorem witness_ConfirmationWaitUnbounded :
    let s := (at_ (.conf .host) []).setEnv [.deliver 0x00#8, .deliver 0xBC#8]
    s.seq = .conf .host ∧ s.rxq = [] ∧ s.env = [0x00#8, 0xBC#8].map .deliver ∧
    ∀ b ∈ [0x00#8, 0xBC#8], isConfirmation b = false := ⟨rfl, rfl, rfl, by decide⟩

/-- The queue of 95_test_vectors.md 2.5, 11 10 BC 8B 0B; and 00, then a timeout. -/
theorem witness_SendFrameEndToEnd :
    (at_ .idle [0x11#8, 0x10#8, 0xBC#8, 0x8B#8, 0x0B#8]).seq = .idle ∧
    (∀ x ∈ [0x11#8, 0x10#8, 0xBC#8], isConfirmation x = false) ∧
    (at_ .idle [0x11#8, 0x10#8, 0xBC#8, 0x8B#8, 0x0B#8]).env = [] ∧
    (at_ .idle [0x11#8, 0x10#8, 0xBC#8, 0x8B#8, 0x0B#8]).rxq = [0x11#8, 0x10#8, 0xBC#8] ++ 0x8B#8 :: [0x0B#8] ∧
    isConfirmation 0x8B#8 = true ∧ isConfirmation 0x0B#8 = true ∧
    (let s := (at_ .idle [0x00#8]).setEnv (List.replicate 19 .block ++ [.timeout, .block])
     (∀ x ∈ [0x00#8], isConfirmation x = false) ∧ s.rxq = [0x00#8] ∧
     s.env = List.replicate (2 * s.totalLength .incoming + [0x00#8].length) .block ++ [.timeout, .block]) := by decide

theorem witness_OwnAddress : idle.seq = .idle := rfl

/-- The last free entry, and a full set. -/
theorem witness_AddListenGroup :
    (idle.setListenCount 47#6).seq = .idle ∧ (idle.setListenCount 47#6).listenCount.toNat < 48 ∧
    (idle.setListenCount 48#6).seq = .idle ∧ 48 ≤ (idle.setListenCount 48#6).listenCount.toNat := by decide

theorem listens_idle : idle.listens 0x0A03#16 := ⟨0, by decide, rfl⟩

theorem not_listens_empty (g : BitVec 16) : ¬ (idle.setListenCount 0#6).listens g := fun ⟨_, h, _⟩ => absurd h (Nat.not_lt_zero _)

/-- 1/2/3 with `idle`, and with an empty listen set. -/
theorem witness_ListenSetQueries :
    idle.seq = .idle ∧
    idle.listens (((1#5).setWidth 16 <<< 11) ||| ((2#3).setWidth 16 <<< 8) ||| (3#8).setWidth 16) ∧
    ¬ (idle.setListenCount 0#6).listens (((1#5).setWidth 16 <<< 11) ||| ((2#3).setWidth 16 <<< 8) ||| (3#8).setWidth 16) :=
  ⟨rfl, listens_idle, not_listens_empty _⟩

theorem witness_BroadcastAndStatus : idle.seq = .idle := rfl

/-- A telegram for the node itself, and one for another. -/
theorem witness_IsOfInterest :
    (let s := tg [0xBC#8, 0#8, 0#8, 0x11#8, 0x05#8, 0x61#8]
     s.seq = .idle ∧ s.wants (s.byte .incoming 3) (s.byte .incoming 4) (s.byte .incoming 5)) ∧
    (let s := tg [0xBC#8, 0#8, 0#8, 0x11#8, 0x06#8, 0x61#8]
     s.seq = .idle ∧ ¬ s.wants (s.byte .incoming 3) (s.byte .incoming 4) (s.byte .incoming 5)) := by
  exact ⟨⟨rfl, rfl⟩, rfl, fun h => absurd (show 0x1106#16 = 0x1105#16 from h) (by decide)⟩

/-- Group 1/2/3, the own address, a broadcast with and without the flag, another node's address. -/
theorem witness_InterestLaws :
    (let s := tg [0xBC#8, 0#8, 0#8, 0x0A#8, 0x03#8, 0xE1#8]
     s.seq = .idle ∧ s.byte .incoming 5 &&& 0x80#8 ≠ 0x00#8 ∧ s.byte .incoming 3 ++ s.byte .incoming 4 = 0x0A03#16 ∧
     s.listens 0x0A03#16) ∧
    (let s := tg [0xBC#8, 0#8, 0#8, 0x11#8, 0x05#8, 0x61#8]
     s.byte .incoming 5 &&& 0x80#8 = 0x00#8 ∧ s.byte .incoming 3 ++ s.byte .incoming 4 = s.ownAddr) ∧
    (idle.byte .incoming 5 &&& 0x80#8 ≠ 0x00#8 ∧ idle.byte .incoming 3 ++ idle.byte .incoming 4 = 0x0000#16 ∧
      (idle.setListenBcast 1#1).listenBcast = 1#1) ∧
    ((idle.setListenCount 0#6).listenBcast = 0#1 ∧ ¬ (idle.setListenCount 0#6).listens 0x0000#16) ∧
    (let s := tg [0xBC#8, 0#8, 0#8, 0x11#8, 0x06#8, 0x61#8]
     s.byte .incoming 5 &&& 0x80#8 = 0x00#8 ∧ s.byte .incoming 3 ++ s.byte .incoming 4 ≠ s.ownAddr) :=
  ⟨⟨rfl, by decide, rfl, listens_idle⟩, ⟨rfl, rfl⟩, ⟨by decide, rfl, rfl⟩, ⟨rfl, not_listens_empty _⟩, rfl, by decide⟩

/-- Queues for the four outcomes. -/
theorem witness_PollEventClassifies :
    (idle.seq = .idle ∧ idle.env = [] ∧ idle.rxq = []) ∧ (at_ .idle [0x03#8]).rxq = 0x03#8 :: [] ∧
    (at_ .idle [0x03#8]).rxq ≠ [] ∧
    ((at_ .idle [0xBD#8]).rxq = 0xBD#8 :: [] ∧ 0xBD#8 ≠ 0x03#8 ∧ 0xBD#8 ||| 0x2C#8 ≠ 0xBC#8) ∧
    ((at_ .idle [0x90#8]).rxq = 0x90#8 :: [] ∧ 0x90#8 ||| 0x2C#8 = 0xBC#8) := by decide

/-- Scenario A's telegram. -/
def scenarioA : List Byte := [0xBC#8, 0x11#8, 0x01#8, 0x0A#8, 0x03#8, 0xE1#8, 0x00#8, 0x81#8, 0x3A#8]

/-- The numbered telegram of 95_test_vectors.md 2.7, NDP with sequence number 3. -/
def numbered : List Byte := [0xB0#8, 0x11#8, 0x01#8, 0x11#8, 0x05#8, 0x61#8, 0x4F#8, 0x00#8, 0x65#8]

/-- The shortest and the longest telegram are 8 and 23 bytes. -/
theorem witness_PollEventAssembles :
    ((at_ .idle (scenarioA ++ [0x8B#8])).seq = .idle ∧ (at_ .idle (scenarioA ++ [0x8B#8])).env = [] ∧
      (at_ .idle (scenarioA ++ [0x8B#8])).rxq = scenarioA ++ [0x8B#8]) ∧
    scenarioA.length = wireLength scenarioA ∧ scenarioA.getD 0 0x00#8 ||| 0x2C#8 = 0xBC#8 ∧
    (let p := [0xBC#8, 0#8, 0#8, 0#8, 0#8, 0x60#8, 0#8, 0#8]; p.length = wireLength p) ∧
    (let p := [0xBC#8, 0#8, 0#8, 0#8, 0#8, 0xEF#8] ++ List.replicate 17 0#8; p.length = wireLength p) := by decide

/-- `BC 11 01 11 05`, then a timeout. -/
theorem witness_PollEventTimesOut :
    let p := [0xBC#8, 0x11#8, 0x01#8, 0x11#8, 0x05#8]
    let s := (at_ .idle p).setEnv (List.replicate 7 .block ++ [.timeout])
    s.seq = .idle ∧ s.rxq = p ∧ s.env = List.replicate (2 + p.length) .block ++ [.timeout] ∧ p.length < wireLength p ∧
    p.getD 0 0x00#8 ||| 0x2C#8 = 0xBC#8 := by decide

theorem witness_PollEventAcknowledges : (at_ (.pAck 1#1) []).seq = .pAck 1#1 ∧ (at_ (.pAck 1#1) []).env = [] := by decide

/-- A numbered telegram of interest; an unnumbered one; one not of interest; the end of the delay. -/
theorem witness_PollEventConfirms :
    (let s := (tg numbered).setSeq (.pNcd 1#1)
     s.env = [] ∧ s.seq = .pNcd 1#1 ∧ s.byte .incoming 6 &&& 0x40#8 ≠ 0x00#8) ∧
    (let s := (tg scenarioA).setSeq (.pNcd 1#1)
     s.env = [] ∧ s.seq = .pNcd 1#1 ∧ s.byte .incoming 6 &&& 0x40#8 = 0x00#8) ∧
    ((tg numbered).setSeq (.pNcd 0#1)).seq = .pNcd 0#1 ∧
    (at_ (.dly (.confirmed .pollEvent 1#1)) []).seq = .dly (.confirmed .pollEvent 1#1) := by decide

/-- Scenario A, of interest and unnumbered; the numbered telegram, not of interest to another node. -/
theorem witness_PollEventUnconfirmed :
    (let s := at_ .idle (scenarioA ++ [])
     s.seq = .idle ∧ s.env = [] ∧ s.rxq = scenarioA ++ [] ∧ scenarioA.length = wireLength scenarioA ∧
     scenarioA.getD 0 0x00#8 ||| 0x2C#8 = 0xBC#8 ∧
     (1#1 = 1#1 ↔ s.wants (scenarioA.getD 3 0x00#8) (scenarioA.getD 4 0x00#8) (scenarioA.getD 5 0x00#8)) ∧
     (1#1 = 0#1 ∨ scenarioA.getD 6 0x00#8 &&& 0x40#8 = 0x00#8)) ∧
    (let s := (at_ .idle (numbered ++ [])).setOwnAddr 0x1106#16
     s.seq = .idle ∧ s.env = [] ∧ s.rxq = numbered ++ [] ∧ numbered.length = wireLength numbered ∧
     numbered.getD 0 0x00#8 ||| 0x2C#8 = 0xBC#8 ∧
     (0#1 = 1#1 ↔ s.wants (numbered.getD 3 0x00#8) (numbered.getD 4 0x00#8) (numbered.getD 5 0x00#8)) ∧
     (0#1 = 0#1 ∨ numbered.getD 6 0x00#8 &&& 0x40#8 = 0x00#8)) :=
  ⟨⟨rfl, rfl, rfl, rfl, rfl, ⟨fun _ => .inl listens_idle, fun _ => rfl⟩, .inr rfl⟩, rfl, rfl, rfl, rfl, rfl,
    ⟨fun h => absurd h (by decide), fun h => absurd (show 0x1105#16 = 0x1106#16 from h) (by decide)⟩, .inl rfl⟩

/-- The numbered telegram, then 8B: C1 of 95_test_vectors.md 2.7. -/
theorem witness_PollEventConfirmed :
    let s := at_ .idle (numbered ++ [0x8B#8])
    s.seq = .idle ∧ s.env = [] ∧ s.rxq = numbered ++ 0x8B#8 :: [] ∧ numbered.length = wireLength numbered ∧
    numbered.getD 0 0x00#8 ||| 0x2C#8 = 0xBC#8 ∧
    s.wants (numbered.getD 3 0x00#8) (numbered.getD 4 0x00#8) (numbered.getD 5 0x00#8) ∧
    numbered.getD 6 0x00#8 &&& 0x40#8 ≠ 0x00#8 ∧ isConfirmation 0x8B#8 = true ∧ isConfirmation 0x0B#8 = true ∧
    0xCE#8 = 0xC2#8 ||| (numbered.getD 6 0x00#8 &&& 0x3C#8) ∧
    0xE9#8 = 0xFF#8 ^^^ 0xBC#8 ^^^ (s.ownAddr >>> 8).setWidth 8 ^^^ s.ownAddr.setWidth 8 ^^^ numbered.getD 1 0x00#8 ^^^
      numbered.getD 2 0x00#8 ^^^ 0x60#8 ^^^ 0xCE#8 :=
  ⟨rfl, rfl, rfl, rfl, rfl, rfl, by decide, rfl, rfl, rfl, by decide⟩

/-- SET_OWN_ADDRESS 1.2.100 issued. -/
theorem witness_SessionWrittenByItsCommands :
    let s := idle.setEnv [.issue (.command 0x38#6 0#1 0x6421#112)]
    ∃ t, step s = .next t ∧ ¬ SameSession s t :=
  ⟨_, rfl, fun h => absurd h.1 (by decide)⟩

/-- A timeout inside the assembly; the end of a confirmed confirmation; an event without one. -/
theorem witness_StatusWrittenByPollEvent :
    (∃ t, step ((at_ (.pRx 3) []).setEnv [.timeout]) = .next t ∧ t.rxTimedOut ≠ idle.rxTimedOut) ∧
    (∃ t, step (at_ (.dly (.confirmed .pollEvent 1#1)) []) = .next t ∧ t.confSentOk ≠ idle.confSentOk) ∧
    ∃ t, step ((at_ (.pNcd 0#1) []).setConfSentOk 1#1) = .next t ∧ t.confSentOk ≠ (idle.setConfSentOk 1#1).confSentOk :=
  ⟨⟨_, rfl, by decide⟩, ⟨_, rfl, by decide⟩, _, rfl, by decide⟩

/-- The start byte of a system telegram (0xB0 with the priority system, 0x90 unrepeated, both ends of the field); a
queued byte; a block that reads nothing; a wait for a confirmation; a read; no turn left. -/
theorem witness_ReceivedControlBytes :
    (0xB4#8 = 0x90#8 ||| (if (1#1 : BitVec 1) = 1#1 then 0x20#8 else 0x00#8) ||| ((0b01#2 : BitVec 2).setWidth 8 <<< 2)) ∧
    (0x9C#8 = 0x90#8 ||| (if (0#1 : BitVec 1) = 1#1 then 0x20#8 else 0x00#8) ||| ((0b11#2 : BitVec 2).setWidth 8 <<< 2)) ∧
    ((at_ (.conf .host) [0x11#8]).rxq ≠ [] ∨ (at_ (.conf .host) [0x11#8]).seq.reads = false) ∧
    (idle.rxq ≠ [] ∨ idle.seq.reads = false) ∧
    ((at_ (.conf .host) []).rxq = [] ∧ (at_ (.conf .host) []).seq = .conf .host) ∧
    ((at_ .rd []).rxq = [] ∧ (at_ .rd []).seq = .rd) ∧
    (at_ (.conf .host) []).env = [] := by decide

/-- Byte 7, the last but one, and byte 8, the last, of the CLEAR telegram; an acknowledgement. -/
theorem witness_SequencerWritesTableBytes :
    (let s := at_ (.tx .incoming 7 .tag .host) []
     s.env = [] ∧ s.seq = .tx .incoming (7#6).toNat .tag .host ∧ (7#6).toNat + 1 < s.totalLength .incoming) ∧
    (let s := at_ (.tx .incoming 8 .tag .host) []
     s.env = [] ∧ s.seq = .tx .incoming (8#6).toNat .tag .host ∧ (8#6).toNat + 1 = s.totalLength .incoming) ∧
    (∃ t, exec (.txTagContinue 7#6) (at_ (.tx .incoming 7 .tag .host) []) = .next t) ∧
    (∃ t, exec (.txTagEnd 8#6) (at_ (.tx .incoming 8 .tag .host) []) = .next t) ∧
    (at_ (.pAck 0#1) []).seq = .pAck 0#1 ∧ (∃ t, exec .txNotAddressed (at_ (.pAck 0#1) []) = .next t) ∧
    ((at_ (.ackTx 0x11#8) []).seq = .ackTx 0x11#8 ∧ ∃ t, exec .txAck (at_ (.ackTx 0x11#8) []) = .next t) ∧
    (at_ (.ackTx 0x10#8) []).seq = .ackTx 0x10#8 ∧ ∃ t, exec .txNotAddressed (at_ (.ackTx 0x10#8) []) = .next t :=
  ⟨by decide, by decide, ⟨_, rfl⟩, ⟨_, rfl⟩, rfl, ⟨_, rfl⟩, ⟨rfl, _, rfl⟩, rfl, _, rfl⟩

theorem witness_ApplicationCommandsNamed : idle.seq = .idle := rfl

/-- Code 0010 of the table, and 0110, which no row has. -/
theorem witness_DecodeAppCommandIsTheRow :
    (let s := tg [0xBC#8, 0#8, 0#8, 0#8, 0#8, 0xE1#8, 0x00#8, 0x81#8]
     s.seq = .idle ∧ s.byte .incoming 6 &&& 0x80#8 = 0x00#8 ∧ s.byte .incoming 5 &&& 0x0F#8 ≠ 0x00#8 ∧
     0x081 = (s.byte .incoming 6).toNat % 4 * 256 + (s.byte .incoming 7).toNat ∧
     decode .apci (leBytes 2 0x081) = .ok (.apciGroupWrite 1#6)) ∧
    (let s := tg [0xBC#8, 0#8, 0#8, 0#8, 0#8, 0xE1#8, 0x01#8, 0x80#8]
     s.seq = .idle ∧ 0x180 = (s.byte .incoming 6).toNat % 4 * 256 + (s.byte .incoming 7).toNat ∧
     decode .apci (leBytes 2 0x180) = .error .unmappedApci) := by decide

/-- The first and the last byte of a buffer. -/
theorem witness_ResetState : 0 ≤ 22 ∧ 22 ≤ 22 := by decide

/-- POLL_EVENT; a telegram byte in each direction; code 0110. -/
theorem witness_StepRunsDecodedWord :
    (idle.setEnv [.issue (.command 0x36#6 0#1 0#112)]).env = .issue (.command 0x36#6 0#1 0#112) :: [] ∧
    decode (Issued.command 0x36#6 0#1 0#112).space (Issued.command 0x36#6 0#1 0#112).bytes = .ok .pollEvent ∧
    decode (Issued.receive 0xBD#8).space (Issued.receive 0xBD#8).bytes = .error .notAControlByte ∧
    decode (Issued.transmit 0x00#8).space (Issued.transmit 0x00#8).bytes = .error .notASendByte ∧
    decode (Issued.apci 0x180#10).space (Issued.apci 0x180#10).bytes = .error .unmappedApci ∧ idle.seq = .idle := by decide

theorem witness_DecodeEncode : (Instr.txTagEnd 7#6).wellFormed = true ∧ (Instr.txTagEnd 22#6).wellFormed = true ∧
    (Instr.txTagContinue 21#6).wellFormed = true ∧ (Instr.setByte .reply 31#5 0xFF#8).wellFormed = true := by decide

/-- A busy block; and at IDLE both ends of the two refused ranges. -/
theorem witness_BusyRefusesCommands :
    ((Instr.getByte .incoming 23#5).space = .command ∧ (at_ (.conf .host) []).seq ≠ .idle) ∧
    (Instr.setByte .incoming 31#5 0#8).space = .command ∧ (Instr.setPayloadLength .incoming 0#5).space = .command ∧
    exec (.getByte .incoming 23#5) (at_ (.conf .host) []) = .refused .busy ∧
    exec (.getByte .incoming 23#5) idle = .refused .indexOutOfRange ∧
    exec (.setByte .incoming 31#5 0#8) idle = .refused .indexOutOfRange ∧
    exec (.setPayloadLength .incoming 0#5) idle = .refused .payloadLengthOutOfRange ∧
    exec (.setPayloadLength .incoming 17#5) idle = .refused .payloadLengthOutOfRange ∧
    exec (.setPayloadLength .incoming 31#5) idle = .refused .payloadLengthOutOfRange :=
  ⟨⟨rfl, by decide⟩, rfl, rfl, rfl, rfl, rfl, rfl, rfl, rfl⟩

/-- No turn to come, a timeout to come, and a read that waits. -/
theorem witness_NoFaultNoStuckState :
    (∀ w r, idle.env ≠ .issue w :: r) ∧ (∀ w r, (idle.setEnv [.timeout]).env ≠ .issue w :: r) ∧
    (at_ .rd []).seq ≠ .idle ∧ (at_ .rd []).env = [] :=
  ⟨fun _ _ h => (nomatch h), fun _ _ h => (nomatch h), by decide, rfl⟩

theorem witness_OtherCommandsAreOneStep :
    Instr.getOwnAddress.space = .command ∧ Instr.getOwnAddress.usesChannel = false ∧
    ∃ t, exec .getOwnAddress idle = .next t := ⟨rfl, rfl, _, rfl⟩

theorem witness_OtherBufferUntouched :
    (Instr.createChecksum .incoming).buffer = some .incoming ∧ Buf.reply ≠ .incoming ∧
    ∃ t, exec (.createChecksum .incoming) idle = .next t := ⟨rfl, by decide, _, rfl⟩

/-- The last pair of a transmission; a reset indication classified and still to be consumed. -/
theorem witness_InvariantKept :
    ((at_ (.tx .incoming 8 .tag .host) []).Inv ∧ ∃ t, step (at_ (.tx .incoming 8 .tag .host) []) = .next t) ∧
    (at_ (.pCls (.read 1#3)) [0x03#8]).Inv ∧ ∃ t, step (at_ (.pCls (.read 1#3)) [0x03#8]) = .next t :=
  ⟨⟨⟨rfl, by decide, And.intro (by decide) (fun h => nomatch h), fun _ => rfl⟩, _, rfl⟩,
    ⟨rfl, by decide, ⟨0x03#8, [], rfl, rfl⟩, fun _ => rfl⟩, _, rfl⟩

end Sys2Proof.Tests
end

section
/-! PROOFS. The block's state (10_state.md): what every command can do, and what every step keeps.

A row that answers a next state is one of four kinds (`exec_next_cases`): a command done in one step, a command that
hands over to the sequencer, a byte delivered, a byte written. -/

namespace Sys2Proof.Machine

/-! ## What a row can answer -/

/-- A command that completed in one step: from IDLE to IDLE with a result on the port; the channel, the turns to come
and the status registers as they were; a canonical memory and a listen count within its bound still so. -/
structure CommandDone (s t : State) : Prop where
  idle : s.seq = .idle
  seq : t.seq = .idle
  result : t.result ≠ none
  rxq : t.rxq = s.rxq
  txlog : t.txlog = s.txlog
  env : t.env = s.env
  rxTimedOut : t.rxTimedOut = s.rxTimedOut
  confSentOk : t.confSentOk = s.confSentOk
  mem : s.mem.wf = true → t.mem.wf = true
  listenCount : s.listenCount.toNat ≤ 48 → t.listenCount.toNat ≤ 48

/-- The positions a command that touches the channel starts from (44_framer.md R198, R201, R206, R207,
45_session_rx.md R232). -/
inductive Seq.Start : Seq → Prop
  | rd : Seq.Start .rd
  | tx (sel : Buf) : Seq.Start (.tx sel 0 .tag .host)
  | ack : Seq.Start (.ackTx ackByte)
  | notAddressed : Seq.Start (.ackTx notAddressedByte)
  | poll : Seq.Start (.pCls .available)

/-- A command handed over to the sequencer: accepted at IDLE, the port emptied, SEQ at its first position. -/
def CommandStarted (s t : State) : Prop := s.seq = .idle ∧ ∃ q, Seq.Start q ∧ t = (s.setResult none).setSeq q

/-- A command that answers and writes OWN_ADDR and LISTEN_BCAST at most; a getter writes them as they are. -/
theorem commandDone_of_session {s t : State} (a : BitVec 16) (b : BitVec 1) {r : Result}
    (h : whenIdle s (answer ((s.setOwnAddr a).setListenBcast b) r) = .next t) : CommandDone s t := by
  obtain ⟨hs, rfl⟩ := command_done h
  exact ⟨hs, hs, Option.some_ne_none r, rfl, rfl, rfl, rfl, rfl, id, id⟩

theorem commandDone_of_answer {s t : State} {r : Result} (h : whenIdle s (answer s r) = .next t) : CommandDone s t :=
  commandDone_of_session s.ownAddr s.listenBcast h

theorem commandDone_of_buffer {i : Instr} {b : Buf} {s t : State} (hb : i.buffer = some b) (h : exec i s = .next t) :
    CommandDone s t := by
  obtain ⟨hs, m, r, k, rfl, -, hm⟩ := exec_buffer_cases hb h
  exact ⟨hs, hs, Option.some_ne_none r, rfl, rfl, rfl, rfl, rfl, hm, id⟩

/-- The count grows only from below 48, so it never passes LISTEN_MAX. -/
theorem commandDone_of_addListen {s t : State} {g : BitVec 16} (h : whenIdle s (s.addListen g) = .next t) :
    CommandDone s t := by
  obtain ⟨hs, ha⟩ := whenIdle_next.mp h
  unfold State.addListen at ha
  split at ha
  next hlt =>
    obtain rfl := answer_next.mp ha
    have hcount : (s.listenCount + 1).toNat ≤ 48 := by
      have : s.listenCount.toNat < 48 := hlt
      rw [BitVec.toNat_add]
      exact (Nat.mod_le _ _).trans this
    exact ⟨hs, hs, Option.some_ne_none _, rfl, rfl, rfl, rfl, rfl, id, fun _ => hcount⟩
  next => exact commandDone_of_answer (whenIdle_next.mpr ⟨hs, ha⟩)

theorem commandStarted_of_begin {s t : State} {q : Seq} (hq : Seq.Start q) (h : whenIdle s (begin s q) = .next t) :
    CommandStarted s t := by
  obtain ⟨hs, hb⟩ := whenIdle_next.mp h
  exact ⟨hs, q, hq, begin_next.mp hb⟩

/-- No codec, checksum or datapoint command touches the channel. -/
theorem usesChannel_of_buffer {i : Instr} {b : Buf} (hb : i.buffer = some b) : i.usesChannel = false := by
  cases i <;> simp_all [Instr.buffer, Instr.usesChannel]

/-- Every command is done in one step or handed over to the sequencer, as it leaves the channel alone or not. -/
theorem exec_command_cases {i : Instr} {s t : State} (hi : i.space = .command) (h : exec i s = .next t) :
    (i.usesChannel = false ∧ CommandDone s t) ∨ (i.usesChannel = true ∧ CommandStarted s t) := by
  match hb : i.buffer with
  | some b => exact .inl ⟨usesChannel_of_buffer hb, commandDone_of_buffer hb h⟩
  | none =>
    cases i
    case readByteTimeout => exact .inr ⟨rfl, commandStarted_of_begin .rd h⟩
    case sendFrame sel => exact .inr ⟨rfl, commandStarted_of_begin (.tx sel) h⟩
    case sendAck => exact .inr ⟨rfl, commandStarted_of_begin .ack h⟩
    case sendNotAddressed => exact .inr ⟨rfl, commandStarted_of_begin .notAddressed h⟩
    case pollEvent => exact .inr ⟨rfl, commandStarted_of_begin .poll h⟩
    case setOwnAddress area line member =>
      exact .inl ⟨rfl, commandDone_of_session (individualAddr area line member) s.listenBcast h⟩
    case addListenGroup => exact .inl ⟨rfl, commandDone_of_addListen h⟩
    case setListenBroadcast b => exact .inl ⟨rfl, commandDone_of_session s.ownAddr b h⟩
    case isFrameStart | classifyByte | getRxStatus | getOwnAddress | isListeningGroup | getListenCount
        | getListenBroadcast | isOfInterest =>
      exact .inl ⟨rfl, commandDone_of_answer h⟩
    all_goals simp [Instr.buffer, Instr.space] at hb hi

/-- All a row can do: a command done or handed over, a byte delivered by the channel, a byte written to it. -/
theorem exec_next_cases {i : Instr} {s t : State} (h : exec i s = .next t) :
    CommandDone s t ∨ CommandStarted s t ∨ (∃ b, t = s.chanDeliver b) ∨ ∃ b, t = s.chanWrite b := by
  match hi : i.space with
  | .command =>
    obtain ⟨-, hd⟩ | ⟨-, hst⟩ := exec_command_cases hi h
    · exact .inl hd
    · exact .inr (.inl hst)
  | .receive => cases i <;> cases hi <;> cases h <;> exact .inr (.inr (.inl ⟨_, rfl⟩))
  | .transmit => cases i <;> cases hi <;> cases h <;> exact .inr (.inr (.inr ⟨_, rfl⟩))
  | .apci => cases i <;> cases hi <;> exact .inl (commandDone_of_answer h)

/-! ## Refusals (60_exceptions.md R252) -/

/-- The operands a command refuses at IDLE, with the reason (60_exceptions.md R253, R254). -/
inductive OperandRefused : Instr → Refusal → Prop
  | getByte {sel : Buf} {idx : BitVec 5} : 23 ≤ idx.toNat → OperandRefused (.getByte sel idx) .indexOutOfRange
  | setByte {sel : Buf} {idx : BitVec 5} {val : Byte} :
    23 ≤ idx.toNat → OperandRefused (.setByte sel idx val) .indexOutOfRange
  | setPayloadLength {sel : Buf} {n : BitVec 5} :
    n.toNat = 0 ∨ 17 ≤ n.toNat → OperandRefused (.setPayloadLength sel n) .payloadLengthOutOfRange

theorem answer_ne_refused {s : State} {r : Result} {e : Refusal} : answer s r ≠ .refused e := nofun

theorem begin_ne_refused {s : State} {q : Seq} {e : Refusal} : begin s q ≠ .refused e := nofun

theorem addListen_ne_refused {s : State} {g : BitVec 16} {e : Refusal} : s.addListen g ≠ .refused e := by
  unfold State.addListen
  split <;> exact answer_ne_refused

/-- Every command waits for IDLE, and what runs then refuses an operand out of its range at most. -/
theorem exec_command_whenIdle {i : Instr} (hi : i.space = .command) (s : State) :
    ∃ k, exec i s = whenIdle s k ∧ ∀ e, k = .refused e → OperandRefused i e := by
  cases i
  case getByte sel idx =>
    refine ⟨_, rfl, fun e h => ?_⟩
    split at h
    next hx => cases h; exact .getByte hx
    next => exact absurd h answer_ne_refused
  case setByte sel idx val =>
    refine ⟨_, rfl, fun e h => ?_⟩
    split at h
    next hx => cases h; exact .setByte hx
    next => exact absurd h answer_ne_refused
  case setPayloadLength sel n =>
    refine ⟨_, rfl, fun e h => ?_⟩
    split at h
    next hx => cases h; exact .setPayloadLength (by omega)
    next => exact absurd h answer_ne_refused
  case readByteTimeout | sendFrame | sendAck | sendNotAddressed | pollEvent =>
    exact ⟨_, rfl, fun _ h => absurd h begin_ne_refused⟩
  case addListenGroup => exact ⟨_, rfl, fun _ h => absurd h addListen_ne_refused⟩
  case rxFrameStart | rxResetIndication | rxPositiveConfirmation | rxNegativeConfirmation | txTagContinue | txTagEnd
      | txAck | txNotAddressed =>
    cases hi
  all_goals exact ⟨_, rfl, fun _ h => absurd h answer_ne_refused⟩

/-- Settles O55: every command stands under the guard of Busy, and only three refuse an operand behind it. -/
theorem busyRefusesCommands : Obligations.BusyRefusesCommands := by
  intro i s hi
  obtain ⟨k, hk, hop⟩ := exec_command_whenIdle hi s
  have busy : s.seq ≠ .idle → exec i s = .refused .busy := fun hs => by rw [hk, whenIdle_of_busy hs]
  refine ⟨busy, fun r hr => ?_⟩
  by_cases hs : s.seq = .idle
  · rw [hk, whenIdle_of_idle hs] at hr
    cases hop r hr with
    | getByte hx => exact .inr (.inl ⟨rfl, hs, _, _, hx, .inl rfl⟩)
    | setByte hx => exact .inr (.inl ⟨rfl, hs, _, _, hx, .inr ⟨_, rfl⟩⟩)
    | setPayloadLength hn => exact .inr (.inr ⟨rfl, hs, _, _, hn, rfl⟩)
  · rw [busy hs] at hr
    cases hr
    exact .inl ⟨rfl, hs⟩

/-! ## Commands in one step (10_state.md R22, R32) -/

/-- Settles O57: such a command is not handed over to the sequencer, so it is done. -/
theorem otherCommandsAreOneStep : Obligations.OtherCommandsAreOneStep := by
  intro i s t hi hc h
  obtain ⟨-, hd⟩ | ⟨hc', -⟩ := exec_command_cases hi h
  · exact ⟨hd.idle, hd.seq, hd.result, hd.rxq, hd.txlog, hd.env, hd.rxTimedOut, hd.confSentOk⟩
  · exact absurd (hc.symm.trans hc') Bool.false_ne_true

/-- An address of one buffer is none of the other's. -/
theorem addr_outside_other {b c : Buf} (hc : c ≠ b) {k : Nat} (hk : k ≤ 22) :
    ¬ (addr b 0 ≤ addr c k ∧ addr c k ≤ addr b 22) := by
  cases b <;> cases c <;> simp only [addr, ne_eq, not_true_eq_false] at hc ⊢ <;> omega

/-- Settles O58: a buffer command writes addresses of its own buffer only. -/
theorem otherBufferUntouched : Obligations.OtherBufferUntouched := by
  intro i s t b c hb hc h
  refine ⟨fun k hk => ?_, buffer_session hb h⟩
  obtain ⟨-, m, r, n, rfl, hread, -⟩ := exec_buffer_cases hb h
  exact hread _ (addr_outside_other hc hk)

/-! ## Reset (70_reset_and_hazards.md R270) -/

/-- An address keeps its index in the low five bits. -/
theorem addr_mod (b : Buf) {k : Nat} (hk : k ≤ 22) : addr b k % 32 = k := by
  cases b <;> simp only [addr] <;> omega

/-- Settles O51: no cell is listed at reset, so every byte reads as the CLEAR telegram's. -/
theorem resetState : Obligations.ResetState := by
  refine ⟨fun b k hk => ?_, rfl, rfl, rfl, rfl, rfl, rfl, rfl⟩
  have hbyte : State.reset.byte b k = clearByte (addr b k % 32) := rfl
  rw [hbyte, addr_mod b hk, clearByte]

/-! ## The issued word (10_state.md R32) -/

/-- Settles O52, by whether the word decodes. -/
theorem stepRunsDecodedWord : Obligations.StepRunsDecodedWord := by
  intro s w r he
  rw [step_issue he]
  refine ⟨fun i hd => runWord_of_decode hd _, fun e hd => ?_⟩
  obtain ⟨b, hw, hr⟩ | ⟨b, hw, hr⟩ | ⟨a, hw, hr⟩ := runWord_of_error hd (s.setEnv r)
  · exact .inl ⟨b, hw, hr.trans (step_deliver (s := s.setEnv (.deliver b :: r)) rfl).symm⟩
  · exact .inr (.inl ⟨b, hw, hr⟩)
  · exact .inr (.inr ⟨a, hw, fun hs => hr.trans (whenIdle_of_idle hs)⟩)

/-! ## The status registers (10_state.md R28, R29) -/

/-- From `s` to `t` the status registers change at most where POLL_EVENT may write them. -/
def StatusStep (s t : State) : Prop :=
  (t.rxTimedOut ≠ s.rxTimedOut → s.seq = .pCls .peek ∨ ∃ i, s.seq = .pRx i) ∧
  (t.confSentOk ≠ s.confSentOk → (∃ i, s.seq = .pNcd i) ∨ ∃ ok, s.seq = .dly (.confirmed .pollEvent ok))

theorem statusStep_of_eq {s t : State} (hr : t.rxTimedOut = s.rxTimedOut) (hc : t.confSentOk = s.confSentOk) :
    StatusStep s t := ⟨fun h => absurd hr h, fun h => absurd hc h⟩

theorem statusStep_chanDeliver (s : State) (b : Byte) : StatusStep s (s.chanDeliver b) := by
  obtain ⟨-, hr, hc⟩ := chanDeliver_status s b
  exact ⟨fun h => .inr (hr h), fun h => absurd hc h⟩

theorem statusStep_chanTimeout (s : State) : StatusStep s s.chanTimeout := by
  obtain ⟨-, hr, hc⟩ := chanTimeout_status s
  exact ⟨fun h => .inr (hr h), fun h => absurd hc h⟩

theorem statusStep_exec {i : Instr} {s t : State} (h : exec i s = .next t) : StatusStep s t := by
  obtain hd | ⟨-, q, -, rfl⟩ | ⟨b, rfl⟩ | ⟨b, rfl⟩ := exec_next_cases h
  · exact statusStep_of_eq hd.rxTimedOut hd.confSentOk
  · exact statusStep_of_eq rfl rfl
  · exact statusStep_chanDeliver s b
  · exact statusStep_of_eq rfl rfl

/-- Settles O45, by the turn the step takes. -/
theorem statusWrittenByPollEvent : Obligations.StatusWrittenByPollEvent := by
  intro s t h
  obtain ⟨-, rfl⟩ | ⟨r, -, rfl⟩ | ⟨b, r, -, rfl⟩ | ⟨r, -, rfl⟩ | ⟨w, r, -, hw⟩ := step_cases h
  · exact (blockStep_status s).2
  · exact (blockStep_status (s.setEnv r)).2
  · exact statusStep_chanDeliver (s.setEnv r) b
  · exact statusStep_chanTimeout (s.setEnv r)
  · obtain ⟨i, -, hx⟩ | ⟨b, -, rfl⟩ | ⟨b, -, rfl⟩ | ⟨-, rfl⟩ := hw
    · exact statusStep_exec (s := s.setEnv r) hx
    · exact statusStep_chanDeliver (s.setEnv r) b
    · exact statusStep_of_eq rfl rfl
    · exact statusStep_of_eq rfl rfl

/-! ## The invariant

`State.Inv` depends on the memory, the listen count, SEQ with RXQ, and the port. A step that ends at IDLE needs the
first two alone (`inv_finish`); one that moves SEQ elsewhere needs the clause of the new position (`inv_setSeq`). -/

theorem seqOk_tx {s : State} {sel : Buf} {i : Nat} {half : Half} {c : Caller} (h : s.seq = .tx sel i half c) :
    s.seqOk ↔ i < s.totalLength sel ∧ (c = .pollEvent → sel = .reply) := by rw [State.seqOk, h]

theorem seqOk_pRx {s : State} {i : Nat} (h : s.seq = .pRx i) : s.seqOk ↔ i < s.totalLength .incoming := by
  rw [State.seqOk, h]

theorem seqOk_peek {s : State} (h : s.seq = .pCls .peek) : s.seqOk ↔ s.rxq ≠ [] := by rw [State.seqOk, h]

theorem seqOk_read {s : State} {e : BitVec 3} (h : s.seq = .pCls (.read e)) : s.seqOk ↔
    ∃ b q, s.rxq = b :: q ∧ if b = 0x03#8 then e = 1#3 else b ||| 0x2C#8 ≠ 0xBC#8 ∧ e = 4#3 := by
  rw [State.seqOk, h]

/-- While a command runs the port is empty. -/
theorem result_of_running {s : State} {q : Seq} (h : s.Inv) (hs : s.seq = q) (hq : q ≠ .idle) : s.result = none :=
  h.port (hs ▸ hq)

theorem inv_finish {s : State} (r : Result) (hm : s.mem.wf = true) (hl : s.listenCount.toNat ≤ 48) :
    (s.finish r).Inv := ⟨hm, hl, trivial, fun h => absurd rfl h⟩

theorem inv_setSeq {s : State} {q : Seq} (hm : s.mem.wf = true) (hl : s.listenCount.toNat ≤ 48)
    (hr : s.result = none) (hq : (s.setSeq q).seqOk) : (s.setSeq q).Inv := ⟨hm, hl, hq, fun _ => hr⟩

theorem inv_setEnv {s : State} (h : s.Inv) (r : List Turn) : (s.setEnv r).Inv :=
  ⟨h.mem, h.listenCount, h.seq, h.port⟩

theorem inv_chanWrite {s : State} (h : s.Inv) (b : Byte) : (s.chanWrite b).Inv :=
  ⟨h.mem, h.listenCount, h.seq, h.port⟩

theorem inv_setChoices {s : State} (h : s.Inv) (n : Nat) : (s.setChoices n).Inv :=
  ⟨h.mem, h.listenCount, h.seq, h.port⟩

theorem inv_commandDone {s t : State} (h : s.Inv) (hd : CommandDone s t) : t.Inv := by
  refine ⟨hd.mem h.mem, hd.listenCount h.listenCount, ?_, fun hs => absurd hd.seq hs⟩
  rw [State.seqOk, hd.seq]
  trivial

/-- Every start position is in range: a transmission begins at byte 0. -/
theorem seqOk_start {s : State} {q : Seq} (hq : Seq.Start q) : (s.setSeq q).seqOk := by
  cases hq with
  | rd => trivial
  | tx sel =>
    have := (s.totalLength_bounds sel).1
    exact (seqOk_tx rfl).mpr ⟨Nat.lt_of_lt_of_le (by decide) this, nofun⟩
  | ack => exact Or.inl rfl
  | notAddressed => exact Or.inr rfl
  | poll => trivial

theorem inv_commandStarted {s t : State} (h : s.Inv) (hc : CommandStarted s t) : t.Inv := by
  obtain ⟨-, q, hq, rfl⟩ := hc
  exact inv_setSeq h.mem h.listenCount rfl (seqOk_start hq)

/-- Only the classification looks at RXQ. -/
theorem seqOk_setRxq {s : State} (hs : ∀ k, s.seq ≠ .pCls k) (q : List Byte) : (s.setRxq q).seqOk ↔ s.seqOk := by
  simp only [State.seqOk, State.setRxq_seq]
  split
  next => exact Iff.rfl
  next => exact Iff.rfl
  next => exact Iff.rfl
  next hk => exact absurd hk (hs _)
  next hk => exact absurd hk (hs _)
  all_goals exact Iff.rfl

/-- A byte more at the end of RXQ keeps what the classification knows of its head. -/
theorem seqOk_append_rxq {s : State} (h : s.seqOk) (b : Byte) : (s.setRxq (s.rxq ++ [b])).seqOk := by
  by_cases hk : ∃ k, s.seq = .pCls k
  · obtain ⟨k, hs⟩ := hk
    match k with
    | .available => simp only [State.seqOk, State.setRxq_seq, hs]
    | .peek =>
      have hne := (seqOk_peek hs).mp h
      exact (seqOk_peek (s := s.setRxq (s.rxq ++ [b])) hs).mpr (List.append_ne_nil_of_left_ne_nil hne [b])
    | .read e =>
      obtain ⟨x, q, hq, hx⟩ := (seqOk_read hs).mp h
      have hq' : (s.setRxq (s.rxq ++ [b])).rxq = x :: (q ++ [b]) := by rw [State.setRxq_rxq, hq, List.cons_append]
      exact (seqOk_read (s := s.setRxq (s.rxq ++ [b])) hs).mpr ⟨x, q ++ [b], hq', hx⟩
  · exact (seqOk_setRxq (not_exists.mp hk) _).mpr h

/-- A read takes a byte of RXQ at a position that knows nothing of RXQ. -/
theorem inv_setRxq_of_reads {s : State} (h : s.Inv) (hr : s.seq.reads = true) (q : List Byte) : (s.setRxq q).Inv := by
  have hs : ∀ k, s.seq ≠ .pCls k := fun k hk => by rw [hk] at hr; cases hr
  exact ⟨h.mem, h.listenCount, (seqOk_setRxq hs q).mpr h.seq, h.port⟩

/-- A byte of the telegram is stored inside IN, and the next index is checked against the length then. -/
theorem inv_assemble {s : State} {i : Nat} (h : s.Inv) (hs : s.seq = .pRx i) (b : Byte) : (s.assemble i b).Inv := by
  have hi : i ≤ 22 := by
    have := (seqOk_pRx hs).mp h.seq
    have := (s.totalLength_bounds .incoming).2
    omega
  have hm := State.setByte_wf (sel := .incoming) b h.mem hi
  have hr := result_of_running h hs nofun
  simp only [State.assemble]
  split
  next hlt => exact inv_setSeq hm h.listenCount hr ((seqOk_pRx rfl).mpr hlt)
  next => exact inv_setSeq hm h.listenCount hr trivial

theorem inv_onRead {s : State} (h : s.Inv) (o : Option Byte) : (s.onRead o).Inv := by
  unfold State.onRead
  split
  next => exact inv_finish _ h.mem h.listenCount
  next => exact inv_finish _ h.mem h.listenCount
  next c b hs =>
    have hr := result_of_running h hs nofun
    split
    next => exact inv_setSeq h.mem h.listenCount hr trivial
    next =>
      split
      next => exact inv_setSeq h.mem h.listenCount hr trivial
      next => exact h
  next c hs => exact inv_setSeq h.mem h.listenCount (result_of_running h hs nofun) trivial
  next i b hs => exact inv_assemble h hs b
  next i hs => exact inv_setSeq h.mem h.listenCount (result_of_running (s := s) h hs nofun) trivial
  all_goals exact h

theorem inv_boundedRead {s : State} (h : s.Inv) (hr : s.seq.reads = true) : s.boundedRead.Inv := by
  unfold State.boundedRead
  split
  next => exact inv_onRead (inv_setRxq_of_reads h hr _) _
  next => exact inv_onRead (inv_setChoices h _) _

theorem inv_chanDeliver {s : State} (h : s.Inv) (b : Byte) : (s.chanDeliver b).Inv := by
  unfold State.chanDeliver
  split
  next => exact inv_onRead h _
  next => exact ⟨h.mem, h.listenCount, seqOk_append_rxq h.seq b, h.port⟩

theorem inv_chanTimeout {s : State} (h : s.Inv) : s.chanTimeout.Inv := by
  unfold State.chanTimeout
  split
  next => exact inv_onRead h _
  next => exact h

/-- What is peeked at decides the event, and stays at the head of RXQ until it is consumed. -/
theorem inv_classify {s : State} {k : Cls} (h : s.Inv) (hs : s.seq = .pCls k) : (s.classify k).Inv := by
  have hr := result_of_running h hs nofun
  cases k with
  | available =>
    simp only [State.classify]
    split
    next ha =>
      refine inv_setSeq h.mem h.listenCount hr ((seqOk_peek rfl).mpr fun (hq : s.rxq = []) => ?_)
      simp [State.chanAvailable, hq] at ha
    next => exact inv_finish _ h.mem h.listenCount
  | read e => exact inv_finish _ h.mem h.listenCount
  | peek =>
    match hq : s.rxq with
    | [] => exact absurd hq ((seqOk_peek hs).mp h.seq)
    | b :: q =>
      simp only [State.classify, State.chanPeek, hq, List.head?_cons]
      split
      next hb =>
        have hb' : b = 0x03#8 := hb
        exact inv_setSeq h.mem h.listenCount hr ((seqOk_read rfl).mpr ⟨b, q, hq, by rw [if_pos hb']⟩)
      next hb =>
        have hb' : ¬ b = 0x03#8 := hb
        split
        next =>
          obtain ⟨m, hm, -, -, hwf⟩ := State.clearBuf_cases s .incoming
          rw [hm]
          refine inv_setSeq (hwf h.mem) h.listenCount hr ((seqOk_pRx rfl).mpr ?_)
          exact Nat.lt_of_lt_of_le (by decide) (State.totalLength_bounds _ .incoming).1
        next hf =>
          have hf' : b ||| 0x2C#8 ≠ 0xBC#8 := mt (isFrameStartByte_iff b).mpr hf
          refine inv_setSeq h.mem h.listenCount hr ((seqOk_read rfl).mpr ⟨b, q, hq, ?_⟩)
          rw [if_neg hb']
          exact ⟨hf', rfl⟩

theorem inv_afterDelay {s : State} {a : After} (h : s.Inv) (hs : s.seq = .dly a) : (s.afterDelay a).Inv := by
  match a with
  | .acknowledged | .confirmed .host ok | .confirmed .pollEvent ok => exact inv_finish _ h.mem h.listenCount
  | .pollAcknowledged i => exact inv_setSeq h.mem h.listenCount (result_of_running h hs nofun) trivial

/-- The confirmation is sent from byte 0 of RPL. -/
theorem inv_confirm {s : State} {i : BitVec 1} (h : s.Inv) (hs : s.seq = .pNcd i) : (s.confirm i).Inv := by
  unfold State.confirm
  split
  next =>
    have hm := buildConfirmation_wf h.mem
    have hr := result_of_running h hs nofun
    rw [buildConfirmation_frame]
    refine inv_setSeq hm h.listenCount hr ((seqOk_tx rfl).mpr ⟨?_, fun _ => rfl⟩)
    exact Nat.lt_of_lt_of_le (by decide) (State.totalLength_bounds _ .reply).1
  next => exact inv_finish _ h.mem h.listenCount

/-- The index of a transmission stays inside the telegram: the tag leaves it, the byte raises it while more follow. -/
theorem inv_blockStep {s : State} (h : s.Inv) : s.blockStep.Inv := by
  have running {q : Seq} (hs : s.seq = q) (hq : q ≠ .idle) : s.result = none := result_of_running h hs hq
  unfold State.blockStep
  split
  next => exact h
  next hs => exact inv_boundedRead h (by rw [hs]; rfl)
  next sel i c hs =>
    have hi := (seqOk_tx hs).mp h.seq
    exact inv_setSeq h.mem h.listenCount (running hs nofun) ((seqOk_tx rfl).mpr hi)
  next sel i c hs =>
    split
    next hlt =>
      have hc := ((seqOk_tx hs).mp h.seq).2
      exact inv_setSeq h.mem h.listenCount (running hs nofun) ((seqOk_tx rfl).mpr ⟨hlt, hc⟩)
    next => exact inv_setSeq h.mem h.listenCount (running hs nofun) trivial
  next c hs => exact inv_boundedRead h (by rw [hs]; rfl)
  next b hs => exact inv_setSeq h.mem h.listenCount (running hs nofun) trivial
  next a hs => exact inv_afterDelay h hs
  next k hs => exact inv_classify h hs
  next i hs => exact inv_boundedRead h (by rw [hs]; rfl)
  next i hs => exact inv_setSeq h.mem h.listenCount (running hs nofun) trivial
  next i hs => exact inv_confirm h hs

theorem inv_exec {i : Instr} {s t : State} (h : s.Inv) (hx : exec i s = .next t) : t.Inv := by
  obtain hd | hc | ⟨b, rfl⟩ | ⟨b, rfl⟩ := exec_next_cases hx
  · exact inv_commandDone h hd
  · exact inv_commandStarted h hc
  · exact inv_chanDeliver h b
  · exact inv_chanWrite h b

/-- Settles O59, by the turn the step takes. -/
theorem invariantKept : Obligations.InvariantKept := by
  intro s t h hstep
  obtain ⟨-, rfl⟩ | ⟨r, -, rfl⟩ | ⟨b, r, -, rfl⟩ | ⟨r, -, rfl⟩ | ⟨w, r, -, hw⟩ := step_cases hstep
  · exact inv_blockStep h
  · exact inv_blockStep (inv_setEnv h r)
  · exact inv_chanDeliver (inv_setEnv h r) b
  · exact inv_chanTimeout (inv_setEnv h r)
  · obtain ⟨i, -, hx⟩ | ⟨b, -, rfl⟩ | ⟨b, -, rfl⟩ | ⟨hs, rfl⟩ := hw
    · exact inv_exec (inv_setEnv h r) hx
    · exact inv_chanDeliver (inv_setEnv h r) b
    · exact inv_chanWrite (inv_setEnv h r) b
    · exact ⟨h.mem, h.listenCount, h.seq, fun hne => absurd hs hne⟩

end Sys2Proof.Machine
end

section
/-! PROOFS. The buffers (20_memory.md): what a field setter leaves of the bytes it touches.

A setter is at most three writes, each inside the bits it may write; so every write keeps the bits outside them. -/

namespace Sys2Proof.Machine

/-- From `s` to `t` no bit of either buffer changes but those set in `w`, a byte of bits for every byte. -/
def SameOutside (w : Buf → Nat → Byte) (s t : State) : Prop :=
  ∀ (b : Buf) (k : Nat), k ≤ 22 → t.byte b k &&& ~~~w b k = s.byte b k &&& ~~~w b k

theorem SameOutside.refl (w : Buf → Nat → Byte) (s : State) : SameOutside w s s := fun _ _ _ => rfl

section
variable {w : Buf → Nat → Byte} {s t u : State} {sel : Buf} {i : Nat}

theorem SameOutside.setByte (h : SameOutside w s u) (hi : i ≤ 22) (hw : w sel i = 0xFF#8) (v : Byte) :
    SameOutside w s (u.setByte sel i v) := by
  intro b k hk
  rw [← h b k hk, State.byte_setByte u sel b i k v hi hk]
  split
  next he =>
    obtain ⟨rfl, rfl⟩ := he
    have hnone : ~~~w b k = 0x00#8 := by rw [hw]; rfl
    rw [hnone, BitVec.and_zero, BitVec.and_zero]
  next => rfl

theorem SameOutside.setField {lo n : Nat} (h : SameOutside w s u) (hi : i ≤ 22) (hw : w sel i = fieldMask lo n)
    (v : BitVec n) : SameOutside w s (u.setField sel i lo v) := by
  intro b k hk
  rw [← h b k hk, State.byte_setField u sel b i lo k v hi hk]
  split
  next he =>
    obtain ⟨rfl, rfl⟩ := he
    exact putBits_and (u.byte b k) lo v (w b k) hw
  next => rfl

/-- The result port is no byte of a buffer. -/
theorem SameOutside.answered {r : Result} (hu : SameOutside w s u) (h : answer u r = .next t) : SameOutside w s t := by
  obtain rfl := answer_next.mp h
  exact hu

/-- A setter that writes its effect `u` behind the guard of Busy. -/
theorem SameOutside.done {r : Result} (hu : SameOutside w s u) (h : whenIdle s (answer u r) = .next t) :
    SameOutside w s t := hu.answered (whenIdle_next.mp h).2

end

/-- Bytes 3 and 4 whole and bit 7 of byte 5, for a target of either kind. -/
theorem sameOutside_putTarget {w : Buf → Nat → Byte} (s : State) {sel : Buf} (hi lo : Byte) (kind : BitVec 1)
    (h3 : w sel 3 = 0xFF#8) (h4 : w sel 4 = 0xFF#8) (h5 : w sel 5 = fieldMask 7 1) :
    SameOutside w s (s.putTarget sel hi lo kind) :=
  (((SameOutside.refl w s).setByte (by decide) h3 hi).setByte (by decide) h4 lo).setField (by decide) h5 kind

theorem exec_sameOutside_writtenBits {i : Instr} {s t : State} (hi : i.isFieldSetter = true) (h : exec i s = .next t) :
    SameOutside i.writtenBits s t := by
  have same : SameOutside i.writtenBits s s := SameOutside.refl _ s
  cases i
  case setByte sel idx val =>
    obtain ⟨-, ha⟩ := whenIdle_next.mp h
    split at ha
    next => cases ha
    next hx => exact (same.setByte (by omega) (if_pos ⟨rfl, rfl⟩) val).answered ha
  case setPayloadLength sel n =>
    obtain ⟨-, ha⟩ := whenIdle_next.mp h
    split at ha
    next => cases ha
    next => exact (same.setField (by decide) (by cases sel <;> rfl) _).answered ha
  case setSourceAddress sel area line member =>
    have hhigh : SameOutside _ s (s.setByte sel 1 (area ++ line)) :=
      same.setByte (by decide) (by cases sel <;> rfl) (area ++ line)
    exact (hhigh.setByte (by decide) (by cases sel <;> rfl) member).done h
  case setTargetGroup sel _ _ _ | setTargetIndividual sel _ _ _ =>
    exact (sameOutside_putTarget s _ _ _ (by cases sel <;> rfl) (by cases sel <;> rfl) (by cases sel <;> rfl)).done h
  case setCommand sel c =>
    have hhigh : SameOutside _ s (s.setField sel 6 0 (c.extractLsb' 2 2)) :=
      same.setField (by decide) (by cases sel <;> rfl) (c.extractLsb' 2 2)
    exact (hhigh.setField (by decide) (by cases sel <;> rfl) _).done h
  case setRepeated sel _ | setPriority sel _ | setTargetType sel _ | setRoutingCounter sel _ | setCommType sel _
      | setSequenceNumber sel _ | setControlData sel _ | setExtendedCommand sel _ | setFirstDataByte sel _ =>
    exact (same.setField (by decide) (by cases sel <;> rfl) _).done h
  all_goals cases hi

/-- Settles O12, by the writes of each setter. -/
theorem settersKeepOtherBits : Obligations.SettersKeepOtherBits :=
  fun _ _ _ hi h b k hk => exec_sameOutside_writtenBits hi h b k hk

end Sys2Proof.Machine
end

section
/-! PROOFS. The encodings (30_encoding.md): every row's word decodes to the row, and what the rows of the wire bytes and
of the application commands do.

A command word is OP, SEL and the operands packed lowest first (`decode_commandRow`); an application command is named by
its ten bits (`decode_apciWord`) and does what its name does (`exec_of_apciInstr`), which is what DECODE_APP_COMMAND
does with those bits of its telegram. -/

namespace Sys2Proof.Machine

/-! ## Command words (R90, R91) -/

/-- The word of a row from its OP, SEL and operand bits; `h` says what the command table reads from them. -/
theorem decode_commandRow {op x : Nat} {sel : Buf} {i : Instr} (hop : op < 64) (hx : x < 2 ^ 112)
    (h : commandOf op sel x = i) : decode .command (commandWord op (selOfBuf sel) x) = .ok i := by
  rw [decode_commandWord hop (selOfBuf_lt sel) hx, bufOfSel_selOfBuf, h]

theorem decode_rowWithoutOperand {op : Nat} {sel : Buf} {i : Instr} (hop : op < 64) (h : commandOf op sel 0 = i) :
    decode .command (commandWord op (selOfBuf sel) 0) = .ok i :=
  decode_commandRow hop (by decide) h

/-- A row with one operand, which fills the operand bits from the lowest. -/
theorem decode_rowOfOperand {op n : Nat} {sel : Buf} {row : BitVec n → Instr} (v : BitVec n) (hop : op < 64)
    (hn : n ≤ 112) (h : ∀ x, commandOf op sel x = row (BitVec.ofNat n x)) :
    decode .command (commandWord op (selOfBuf sel) v.toNat) = .ok (row v) := by
  refine decode_commandRow hop (v.isLt.trans_le (Nat.pow_le_pow_right (by decide) hn)) ?_
  rw [h, BitVec.ofNat_toNat, BitVec.setWidth_eq]

/-- The operand that stands in the low `n` bits of `x`. -/
theorem ofNat_eq_operand {n x : Nat} {v : BitVec n} (h : x % 2 ^ n = v.toNat) : BitVec.ofNat n x = v :=
  BitVec.eq_of_toNat_eq (by rw [BitVec.toNat_ofNat, h])

/-- A row whose operands are an individual address (R73). -/
theorem decode_rowOfIndividual {op : Nat} {sel : Buf} {row : BitVec 4 → BitVec 4 → Byte → Instr} (area line : BitVec 4)
    (member : Byte) (hop : op < 64)
    (h : ∀ x, commandOf op sel x = row (BitVec.ofNat 4 x) (BitVec.ofNat 4 (x / 2 ^ 4)) (BitVec.ofNat 8 (x / 2 ^ 8))) :
    decode .command (commandWord op (selOfBuf sel) (area.toNat + 2 ^ 4 * line.toNat + 2 ^ 8 * member.toNat)) =
      .ok (row area line member) := by
  refine decode_commandRow hop (by omega) ?_
  rw [h, ofNat_eq_operand (v := area) (by omega), ofNat_eq_operand (v := line) (by omega),
    ofNat_eq_operand (v := member) (by omega)]

/-- A row whose operands are a group address (R74). -/
theorem decode_rowOfGroup {op : Nat} {sel : Buf} {row : BitVec 5 → BitVec 3 → Byte → Instr} (main : BitVec 5)
    (middle : BitVec 3) (sub : Byte) (hop : op < 64)
    (h : ∀ x, commandOf op sel x = row (BitVec.ofNat 5 x) (BitVec.ofNat 3 (x / 2 ^ 5)) (BitVec.ofNat 8 (x / 2 ^ 8))) :
    decode .command (commandWord op (selOfBuf sel) (main.toNat + 2 ^ 5 * middle.toNat + 2 ^ 8 * sub.toNat)) =
      .ok (row main middle sub) := by
  refine decode_commandRow hop (by omega) ?_
  rw [h, ofNat_eq_operand (v := main) (by omega), ofNat_eq_operand (v := middle) (by omega),
    ofNat_eq_operand (v := sub) (by omega)]

theorem decode_encode_setByte (sel : Buf) (idx : BitVec 5) (val : Byte) :
    decode .command (encode (.setByte sel idx val)) = .ok (.setByte sel idx val) := by
  refine decode_commandRow (by decide) (by omega) ?_
  exact congrArg₂ (Instr.setByte sel) (ofNat_eq_operand (by omega)) (ofNat_eq_operand (by omega))

theorem decode_encode_setTime (sel : Buf) (wd : BitVec 3) (h : BitVec 5) (mi sec : BitVec 6) :
    decode .command (encode (.setTime sel wd h mi sec)) = .ok (.setTime sel wd h mi sec) := by
  refine decode_commandRow (by decide) (by omega) ?_
  show Instr.setTime sel _ _ _ _ = _
  rw [ofNat_eq_operand (v := wd) (by omega), ofNat_eq_operand (v := h) (by omega),
    ofNat_eq_operand (v := mi) (by omega), ofNat_eq_operand (v := sec) (by omega)]

/-- The fourteen bytes of a text fill the operand lines exactly. -/
theorem textBits_lt (t : Vector Byte 14) : textBits t < 2 ^ 112 := by
  unfold textBits
  omega

/-! ## Wire bytes (R87, R88) -/

theorem decode_frameStartByte : ∀ (r : BitVec 1) (p : BitVec 2),
    decode .receive [frameStartByte r p] = .ok (.rxFrameStart r p) := by decide

/-- The two top bits tell a tag from the acknowledgements, whatever index it carries. -/
theorem decode_tagContinue : ∀ i : BitVec 6, decode .transmit [tagContinue i] = .ok (.txTagContinue i) := by decide

theorem decode_tagEnd : ∀ i : BitVec 6, decode .transmit [tagEnd i] = .ok (.txTagEnd i) := by decide

/-! ## Application commands (R78, R81, R84) -/

/-- The word of an application command decodes to the row its name has. -/
theorem decode_apciWord (c : BitVec 4) (x : BitVec 6) :
    decode .apci (apciWord c.toNat x.toNat) = apciInstr x (appCommandOf c x) := by
  have hword : ofLeBytes (apciWord c.toNat x.toNat) = 64 * c.toNat + x.toNat := by
    rw [apciWord, ofLeBytes_leBytes]
    omega
  have hlen : (apciWord c.toNat x.toNat).length = 2 := length_leBytes _ _
  have hlt : 64 * c.toNat + x.toNat < 1024 := by omega
  have hx : BitVec.ofNat 6 (64 * c.toNat + x.toNat) = x := ofNat_eq_operand (by omega)
  have hc : BitVec.ofNat 4 ((64 * c.toNat + x.toNat) / 64) = c := ofNat_eq_operand (by omega)
  simp only [decode, hlen, if_true, decodeApci, hword, hlt, hx, hc]

/-! ## Every row (R90) -/

/-- No bit of any operand is lost, whatever the index of a send tag. -/
theorem decode_encode (i : Instr) : decode i.space (encode i) = .ok i := by
  cases i
  case getByte sel v | setPayloadLength sel v | setRepeated sel v | setPriority sel v | setTargetType sel v
      | setRoutingCounter sel v | setCommType sel v | setSequenceNumber sel v | setControlData sel v | setCommand sel v
      | setExtendedCommand sel v | setFirstDataByte sel v | set1ByteInt sel v | set2ByteFloat sel v
      | set4ByteFloat sel v =>
    exact decode_rowOfOperand v (by decide) (by decide) fun _ => rfl
  case isFrameStart v | classifyByte v | setListenBroadcast v =>
    exact decode_rowOfOperand (sel := .incoming) v (by decide) (by decide) fun _ => rfl
  case setSourceAddress sel area line member | setTargetIndividual sel area line member =>
    exact decode_rowOfIndividual area line member (by decide) fun _ => rfl
  case setOwnAddress area line member =>
    exact decode_rowOfIndividual (sel := .incoming) area line member (by decide) fun _ => rfl
  case setTargetGroup sel main middle sub =>
    exact decode_rowOfGroup main middle sub (by decide) fun _ => rfl
  case addListenGroup main middle sub | isListeningGroup main middle sub =>
    exact decode_rowOfGroup (sel := .incoming) main middle sub (by decide) fun _ => rfl
  case setByte sel idx val => exact decode_encode_setByte sel idx val
  case setTime sel wd h mi sec => exact decode_encode_setTime sel wd h mi sec
  case set14ByteText sel t =>
    exact decode_commandRow (by decide) (textBits_lt t) (congrArg (Instr.set14ByteText sel) (textOperand_textBits t))
  case readByteTimeout | sendAck | sendNotAddressed | pollEvent | getRxStatus | getOwnAddress | getListenCount
      | getListenBroadcast =>
    exact decode_rowWithoutOperand (sel := .incoming) (by decide) rfl
  case rxFrameStart r p => exact decode_frameStartByte r p
  case txTagContinue i => exact decode_tagContinue i
  case txTagEnd i => exact decode_tagEnd i
  case rxResetIndication | rxPositiveConfirmation | rxNegativeConfirmation | txAck | txNotAddressed => rfl
  case apciGroupRead x => exact decode_apciWord 0#4 x
  case apciGroupResponse x => exact decode_apciWord 1#4 x
  case apciGroupWrite x => exact decode_apciWord 2#4 x
  case apciIndividualAddrWrite x => exact decode_apciWord 3#4 x
  case apciIndividualAddrRead x => exact decode_apciWord 4#4 x
  case apciIndividualAddrResponse x => exact decode_apciWord 5#4 x
  case apciMemoryRead x => exact decode_apciWord 8#4 x
  case apciMemoryResponse x => exact decode_apciWord 9#4 x
  case apciMemoryWrite x => exact decode_apciWord 10#4 x
  case apciDeviceDescriptorRead x => exact decode_apciWord 12#4 x
  case apciDeviceDescriptorResponse x => exact decode_apciWord 13#4 x
  case apciRestart x => exact decode_apciWord 14#4 x
  case apciAuthorizeRequest => exact decode_apciWord 15#4 0b010001#6
  case apciAuthorizeResponse => exact decode_apciWord 15#4 0b010010#6
  case apciPropertyRead => exact decode_apciWord 15#4 0b010101#6
  case apciPropertyResponse => exact decode_apciWord 15#4 0b010110#6
  case apciPropertyWrite => exact decode_apciWord 15#4 0b010111#6
  all_goals exact decode_rowWithoutOperand (by decide) rfl

/-- Settles O54: it holds of every instruction, so the range of a send tag's index is not needed. -/
theorem decodeEncode : Obligations.DecodeEncode := fun i _ => decode_encode i

/-- Settles O53: each word written out is the encoding of its instruction. -/
theorem wordsDecode : Obligations.WordsDecode :=
  ⟨decode_encode (.getByte .reply 5#5), decode_encode .pollEvent, decode_encode (.rxFrameStart 1#1 0b01#2),
    decode_encode .rxResetIndication, decode_encode (.txTagContinue 5#6), decode_encode .txAck,
    decode_encode (.apciGroupWrite 1#6), decode_encode .apciAuthorizeRequest⟩

/-! ## What an application command does (R82, R84, R126) -/

theorem nameApp_of_idle {s : State} (hs : s.seq = .idle) (a : AppCommand) :
    nameApp a s = .next (s.setResult (some (.code5 (appCommandCode a)))) := whenIdle_of_idle hs

/-- The row of a name does what the name does: its data bits never matter. -/
theorem exec_of_apciInstr {x : BitVec 6} {a : AppCommand} {i : Instr} (h : apciInstr x a = .ok i) (s : State) :
    exec i s = nameApp a s := by
  cases a <;> cases h <;> rfl

/-- Only UNKNOWN has no row. -/
theorem unknown_of_apciInstr {x : BitVec 6} {a : AppCommand} {e : DecodeError} (h : apciInstr x a = .error e) :
    a = .unknown := by
  cases a
  case unknown => rfl
  all_goals cases h

/-- Settles O49: each row is its name, and its name is its code. -/
theorem applicationCommandsNamed : Obligations.ApplicationCommandsNamed := by
  intro d s hs
  have named := nameApp_of_idle hs
  exact ⟨named .groupRead, named .groupResponse, named .groupWrite, named .individualAddrWrite,
    named .individualAddrRead, named .individualAddrResponse, named .memoryRead, named .memoryResponse,
    named .memoryWrite, named .deviceDescriptorRead, named .deviceDescriptorResponse, named .restart,
    named .authorizeRequest, named .authorizeResponse, named .propertyRead, named .propertyResponse,
    named .propertyWrite⟩

/-- Bit 7 of byte 6 is 0 in a data telegram, and set in both control types (30_encoding.md R77). -/
theorem commType_of_data {s : State} {sel : Buf} (h : s.byte sel 6 &&& 0x80#8 = 0x00#8) :
    s.commType sel ≠ commUcd ∧ s.commType sel ≠ commNcd := by
  rw [State.commType, State.field]
  generalize s.byte sel 6 = b at h ⊢
  revert b
  decide

theorem two_le_payloadLength {s : State} {sel : Buf} (h : s.byte sel 5 &&& 0x0F#8 ≠ 0x00#8) :
    2 ≤ s.payloadLength sel := by
  have hne : (s.byte sel 5 &&& 0x0F#8).toNat ≠ 0 := fun h0 => h (BitVec.eq_of_toNat_eq h0)
  rw [State.payloadLength, State.field, toNat_low4]
  omega

theorem appCommand_of_data {s : State} {sel : Buf} (h6 : s.byte sel 6 &&& 0x80#8 = 0x00#8)
    (h5 : s.byte sel 5 &&& 0x0F#8 ≠ 0x00#8) : s.appCommand sel = appCommandOf (s.cmd4 sel) (s.ext6 sel) := by
  obtain ⟨hucd, hncd⟩ := commType_of_data h6
  have hlen := two_le_payloadLength h5
  exact if_neg (not_or.mpr ⟨hucd, not_or.mpr ⟨hncd, Nat.not_lt.mpr hlen⟩⟩)

/-- The ten bits of bytes 6 and 7 as a number (30_encoding.md R78). -/
theorem apci10_eq (s : State) (sel : Buf) : (s.byte sel 6).toNat % 4 * 256 + (s.byte sel 7).toNat =
    64 * (s.cmd4 sel).toNat + (s.ext6 sel).toNat := by
  have hlow : (s.field sel 7 6 2).toNat < 2 ^ 2 := (s.field sel 7 6 2).isLt
  rw [State.cmd4, BitVec.toNat_append, ← Nat.shiftLeft_add_eq_or_of_lt hlow]
  simp only [State.ext6, State.field, getBits, BitVec.extractLsb'_toNat, Nat.shiftRight_eq_div_pow,
    Nat.shiftLeft_eq]
  omega

/-- Settles O50: the telegram's ten bits are the word of its command's name. -/
theorem decodeAppCommandIsTheRow : Obligations.DecodeAppCommandIsTheRow := by
  intro sel s w hs h6 h5 hw
  have hdecode : decode .apci (leBytes 2 w) = apciInstr (s.ext6 sel) (s.appCommand sel) := by
    rw [hw, apci10_eq, appCommand_of_data h6 h5]
    exact decode_apciWord _ _
  have hexec : exec (.decodeAppCommand sel) s = nameApp (s.appCommand sel) s := rfl
  rw [hdecode, hexec]
  refine ⟨fun i hi => (exec_of_apciInstr hi s).symm, fun e he => ?_⟩
  rw [unknown_of_apciInstr he]
  exact nameApp_of_idle hs .unknown

/-! ## What a received byte does (R87, 44_framer.md R197, R203) -/

/-- The frame-start byte as the mask of its three free bits over 0x90. -/
theorem frameStartByte_eq : ∀ (r : BitVec 1) (p : BitVec 2), frameStartByte r p =
    0x90#8 ||| (if r = 1#1 then 0x20#8 else 0x00#8) ||| (p.setWidth 8 <<< 2) := by decide

/-- With no read waiting on an empty queue a byte joins the queue. -/
theorem chanDeliver_queued {s : State} (h : s.rxq ≠ [] ∨ s.seq.reads = false) (b : Byte) :
    s.chanDeliver b = s.setRxq (s.rxq ++ [b]) := by
  refine if_neg fun hw => ?_
  obtain ⟨hreads, hempty⟩ := Bool.and_eq_true_iff.mp hw
  obtain hq | hr := h
  · exact hq (List.isEmpty_iff.mp hempty)
  · exact Bool.false_ne_true (hr.symm.trans hreads)

/-- A read waiting on an empty queue takes the byte. -/
theorem chanDeliver_waiting {s : State} (hq : s.rxq = []) (hr : s.seq.reads = true) (b : Byte) :
    s.chanDeliver b = s.onRead (some b) :=
  if_pos (Bool.and_eq_true_iff.mpr ⟨hr, List.isEmpty_iff.mpr hq⟩)

theorem chanDeliver_rd {s : State} (hq : s.rxq = []) (hs : s.seq = .rd) (b : Byte) :
    s.chanDeliver b = (s.setResult (some (.readByte 1#1 b))).setSeq .idle := by
  rw [chanDeliver_waiting hq (by rw [hs]; rfl)]
  simp only [State.onRead, hs, State.finish]

theorem chanDeliver_conf {s : State} {c : Caller} (hq : s.rxq = []) (hs : s.seq = .conf c) (b : Byte) :
    s.chanDeliver b =
      if b = positiveConfirmation then s.setSeq (.dly (.confirmed c 1#1))
      else if b = negativeConfirmation then s.setSeq (.dly (.confirmed c 0#1)) else s := by
  rw [chanDeliver_waiting hq (by rw [hs]; rfl)]
  simp only [State.onRead, hs]

/-- No frame start is a confirmation. -/
theorem frameStartByte_ne_confirmation : ∀ (r : BitVec 1) (p : BitVec 2),
    frameStartByte r p ≠ positiveConfirmation ∧ frameStartByte r p ≠ negativeConfirmation := by decide

/-- With no turn to come but the byte's, the step is its delivery. -/
theorem step_deliver_last {s : State} (he : s.env = []) (b : Byte) :
    step (s.setEnv [.deliver b]) = .next (s.chanDeliver b) := by
  rw [step_deliver (s := s.setEnv [.deliver b]) rfl, State.setEnv_setEnv, ← he]
  rfl

/-- Settles O46: each row is the delivery of its byte, so each clause is one about `chanDeliver`. -/
theorem receivedControlBytes : Obligations.ReceivedControlBytes := by
  rintro r p c s b rfl
  rw [← frameStartByte_eq]
  refine ⟨fun h => ?_, fun hq hs => ?_, fun hq hs => ?_, fun he => ?_⟩
  · have queued b := congrArg (Host.Outcome.next : State → Out) (chanDeliver_queued h b)
    exact ⟨queued _, queued _, queued _, queued _⟩
  · obtain ⟨hpos, hneg⟩ := frameStartByte_ne_confirmation r p
    have conf b := congrArg (Host.Outcome.next : State → Out) (chanDeliver_conf hq hs b)
    refine ⟨conf _, conf _, (conf _).trans ?_, conf _⟩
    rw [if_neg hpos, if_neg hneg]
  · have rd b := congrArg (Host.Outcome.next : State → Out) (chanDeliver_rd hq hs b)
    exact ⟨rd _, rd _, rd _, rd _⟩
  · have last b := (step_deliver_last he b).symm
    exact ⟨last _, last _, last _, last _⟩

/-! ## What a sent byte does (R88, 44_framer.md R199, R202, R206, R207) -/

/-- Settles O47: each row writes its byte to the channel. -/
theorem sentControlBytes : Obligations.SentControlBytes := fun _ _ => ⟨rfl, rfl, rfl, rfl⟩

/-- The tag of a byte that more follow, and of the last byte. -/
theorem sendTag_continue {n : BitVec 6} {T : Nat} (h : n.toNat + 1 < T) : sendTag n.toNat T = tagContinue n := by
  rw [sendTag, if_neg (Nat.ne_of_lt h), BitVec.ofNat_toNat, BitVec.setWidth_eq]

theorem sendTag_end {n : BitVec 6} {T : Nat} (h : n.toNat + 1 = T) : sendTag n.toNat T = tagEnd n := by
  rw [sendTag, if_pos h, BitVec.ofNat_toNat, BitVec.setWidth_eq]

theorem blockStep_tag {s : State} {sel : Buf} {i : Nat} {c : Caller} (hs : s.seq = .tx sel i .tag c) :
    s.blockStep = (s.chanWrite (sendTag i (s.totalLength sel))).setSeq (.tx sel i .data c) := by
  simp only [State.blockStep, hs]

theorem blockStep_ackTx {s : State} {b : Byte} (hs : s.seq = .ackTx b) :
    s.blockStep = (s.chanWrite b).setSeq (.dly .acknowledged) := by
  simp only [State.blockStep, hs]

theorem exec_acknowledgement (w : BitVec 1) (s : State) : exec (if w = 1#1 then .txAck else .txNotAddressed) s =
    .next (s.chanWrite (if w = 1#1 then 0x11#8 else 0x10#8)) := by
  split <;> rfl

/-- Settles O48: at each of these positions the block writes the row's byte. -/
theorem sequencerWritesTableBytes : Obligations.SequencerWritesTableBytes := by
  intro s t sel n c w he
  rw [step_nil he]
  refine ⟨fun hs hn hx => ?_, fun hs hn hx => ?_, fun hs hx => ?_, fun hs hx => ?_, fun hs hx => ?_⟩
  · cases hx
    rw [blockStep_tag hs, sendTag_continue hn]
  · cases hx
    rw [blockStep_tag hs, sendTag_end hn]
  · rw [exec_acknowledgement] at hx
    cases hx
    rw [ack_step hs]
  · cases hx
    exact congrArg _ (blockStep_ackTx hs)
  · cases hx
    exact congrArg _ (blockStep_ackTx hs)

end Sys2Proof.Machine
end

section
/-! PROOFS. The codec fields (41_codec_fields.md): what each setter stores, what each getter reads, and that a field got
after its setter is the value set.

A field is written by mask and OR (`putBits_mask`) and read by shift and truncation (`getBits_eq_shift`), so a one-field
setter is `fieldSetter` and a getter is `getter`. The commands over several bytes have one lemma each for what their
writes leave to be read. -/

namespace Sys2Proof.Machine

/-! ## Fields in the numbers of the spec (00_scope.md R11) -/

/-- A field that starts at bit 0 needs no shift. -/
theorem getBits_zero (x : Byte) (n : Nat) : getBits x 0 n = x.setWidth n := by
  rw [getBits_eq_shift, BitVec.ushiftRight_zero]

theorem putBits_zero_mask {n : Nat} (x : Byte) (v : BitVec n) (h : n ≤ 8) :
    putBits x 0 v = (x &&& ~~~fieldMask 0 n) ||| v.setWidth 8 := by
  rw [putBits_mask x 0 v (by omega), BitVec.shiftLeft_zero]

/-- Two fields side by side, as a shift and an OR. -/
theorem append_eq_shift_or {m n : Nat} (x : BitVec m) (y : BitVec n) :
    x ++ y = (x.setWidth (m + n) <<< n) ||| y.setWidth (m + n) := by
  rw [← BitVec.setWidth_append_eq_shiftLeft_setWidth_or, BitVec.setWidth_eq]

/-! ## What a command writes and reads -/

/-- A command whose effect `u` differs from `s` in the memory at most. -/
theorem setter {i : Instr} {s u : State} {f : Nat → Byte} (hs : s.seq = .idle)
    (he : exec i s = whenIdle s (answer u .empty)) (hu : u = s.setMem u.mem) (hf : ∀ a, u.mem.read a = f a) :
    Completes i s .empty f :=
  Completes.of_frame (he.trans (whenIdle_of_idle hs)) hu hf

/-- A getter of one field that runs after the field's setter answers the value set. -/
theorem field_readBack {n : Nat} {s t : State} {sel : Buf} {i lo : Nat} {v : BitVec n} (row : BitVec n → Result)
    (hl : lo + n ≤ 8) (h : whenIdle s (answer (s.setField sel i lo v) .empty) = .next t) :
    whenIdle t (answer t (row (t.field sel i lo n))) = .next (t.setResult (some (row v))) := by
  obtain ⟨ht, hv⟩ := field_done hl h
  exact getter ht (congrArg row hv)

/-- An address of one byte of a buffer is no other byte's. -/
theorem ne_addr_of_eq_addr {sel : Buf} {a i j : Nat} (hij : i ≠ j) (h : a = addr sel i) : ¬ a = addr sel j := by
  rw [addr_eq] at h ⊢
  omega

/-! ## CLEAR (R100) -/

/-- Settles O1: of the bytes CLEAR writes only bytes 0 and 5 are not zero. -/
theorem clearWritesDefaultTelegram : Obligations.ClearWritesDefaultTelegram := by
  intro sel s hs
  refine ⟨op_commandWord (by decide), setter hs rfl (s.clearBuf_frame sel) fun a => ?_⟩
  rw [State.read_clearBuf, addr_eq sel 5, addr_eq sel 22]
  by_cases hr : addr sel 0 ≤ a ∧ a ≤ addr sel 0 + 22
  · have h0 : a - addr sel 0 = 0 ↔ a = addr sel 0 := by omega
    have h5 : a - addr sel 0 = 5 ↔ a = addr sel 0 + 5 := by omega
    simp only [clearByte, if_pos hr, h0, h5]
  · have h0 : ¬ a = addr sel 0 := by omega
    have h5 : ¬ a = addr sel 0 + 5 := by omega
    rw [if_neg hr, if_neg h0, if_neg h5, if_neg hr]

/-! ## The raw byte (R101, R102, 60_exceptions.md R253) -/

theorem exec_getByte_of_le {sel : Buf} {idx : BitVec 5} {s : State} (hs : s.seq = .idle) (h : idx.toNat ≤ 22) :
    exec (.getByte sel idx) s = .next (s.setResult (some (.byte (s.byte sel idx.toNat)))) :=
  (whenIdle_of_idle hs).trans (if_neg (Nat.not_lt.mpr h))

theorem exec_setByte_of_le {sel : Buf} {idx : BitVec 5} {val : Byte} {s : State} (hs : s.seq = .idle)
    (h : idx.toNat ≤ 22) :
    exec (.setByte sel idx val) s = .next ((s.setByte sel idx.toNat val).setResult (some .empty)) :=
  (whenIdle_of_idle hs).trans (if_neg (Nat.not_lt.mpr h))

/-- Settles O2, by whether the index names a byte. -/
theorem rawByteAccess : Obligations.RawByteAccess := by
  intro sel idx val s hs
  refine ⟨op_commandWord (by decide), op_commandWord (by decide), fun h => ⟨exec_getByte_of_le hs h, ?_⟩, fun h => ?_⟩
  · exact Completes.of_frame (exec_setByte_of_le hs h) (s.setByte_frame sel _ val)
      fun a => s.read_setByte sel _ a val
  · exact ⟨(whenIdle_of_idle hs).trans (if_pos h), (whenIdle_of_idle hs).trans (if_pos h)⟩

theorem getByte_after_setByte {sel : Buf} {idx : BitVec 5} {val : Byte} {s t : State}
    (h : exec (.setByte sel idx val) s = .next t) :
    exec (.getByte sel idx) t = .next (t.setResult (some (.byte val))) := by
  obtain ⟨hs, ha⟩ := whenIdle_next.mp h
  split at ha
  next => cases ha
  next hx =>
    have ht := answer_next.mp ha
    have hidle : t.seq = .idle := by rw [ht]; exact hs
    have hval : t.byte sel idx.toNat = val := by rw [ht]; exact s.byte_setByte_same sel idx.toNat val
    rw [exec_getByte_of_le hidle (Nat.not_lt.mp hx), hval]

/-! ## The lengths (R103 to R105, 60_exceptions.md R254) -/

theorem payloadLength_eq (s : State) (sel : Buf) : s.payloadLength sel = (s.byte sel 5 &&& 0x0F#8).toNat + 1 :=
  congrArg (· + 1) (toNat_low4 (s.byte sel 5))

/-- The length the five result lines carry. -/
theorem ofNat_payloadLength (s : State) (sel : Buf) :
    BitVec.ofNat 5 (s.payloadLength sel) = (s.byte sel 5 &&& 0x0F#8).setWidth 5 + 1#5 := by
  rw [payloadLength_eq, BitVec.ofNat_add, BitVec.ofNat_toNat]

theorem exec_setPayloadLength_of_mem {sel : Buf} {n : BitVec 5} {s : State} (hs : s.seq = .idle)
    (h : 1 ≤ n.toNat ∧ n.toNat ≤ 16) :
    exec (.setPayloadLength sel n) s = .next ((s.putLength sel n.toNat).setResult (some .empty)) :=
  (whenIdle_of_idle hs).trans (if_neg (by omega))

theorem getPayloadLength_after_set {sel : Buf} {n : BitVec 5} {s t : State}
    (h : exec (.setPayloadLength sel n) s = .next t) :
    exec (.getPayloadLength sel) t = .next (t.setResult (some (.code5 n))) := by
  obtain ⟨hs, ha⟩ := whenIdle_next.mp h
  split at ha
  next => cases ha
  next hn =>
    obtain ⟨ht, hfield⟩ := field_done (by decide) (whenIdle_next.mpr ⟨hs, ha⟩)
    refine getter ht (congrArg Result.code5 ?_)
    rw [State.payloadLength, hfield, BitVec.toNat_ofNat, Nat.mod_eq_of_lt (by omega), Nat.sub_add_cancel (by omega),
      BitVec.ofNat_toNat, BitVec.setWidth_eq]

theorem setPayloadLength_completes {sel : Buf} {n : BitVec 5} {s : State} (hs : s.seq = .idle)
    (h : 1 ≤ n.toNat ∧ n.toNat ≤ 16) :
    Completes (.setPayloadLength sel n) s .empty
      (s.readPatched sel 5 ((s.byte sel 5 &&& 0xF0#8) ||| BitVec.ofNat 8 (n.toNat - 1))) := by
  refine Completes.of_frame (exec_setPayloadLength_of_mem hs h) (s.putLength_frame sel _) fun a => ?_
  have hw : (BitVec.ofNat 4 (n.toNat - 1)).setWidth 8 = BitVec.ofNat 8 (n.toNat - 1) :=
    BitVec.setWidth_ofNat_of_le_of_lt (by decide) (by omega)
  rw [State.putLength, State.read_setField, putBits_length _ _ _ _ rfl hw]
  rfl

/-- Settles O3, by the range of the length. -/
theorem lengthOperations : Obligations.LengthOperations := by
  intro sel n s hs
  refine ⟨op_commandWord (by decide), op_commandWord (by decide), op_commandWord (by decide),
    fun hn => ⟨setPayloadLength_completes hs hn, fun _ => getPayloadLength_after_set⟩,
    fun hn => (whenIdle_of_idle hs).trans (if_pos (by omega)),
    getter hs (congrArg Result.code5 (ofNat_payloadLength s sel)), getter hs (congrArg Result.code5 ?_),
    payloadLength_eq s sel, rfl, s.payloadLength_pos sel, s.payloadLength_le sel⟩
  rw [← ofNat_payloadLength, State.totalLength, BitVec.ofNat_add, BitVec.ofNat_add]

/-! ## Byte 0 (R106 to R109) -/

/-- The stored bit is 1 when NOT repeated. -/
theorem putBits_not_repeated (x : Byte) (r : BitVec 1) :
    putBits x 5 (~~~r) = (x &&& 0xDF#8) ||| if r = 1#1 then 0x00#8 else 0x20#8 := by
  have hbit : ∀ r : BitVec 1, (~~~r).setWidth 8 <<< 5 = if r = 1#1 then 0x00#8 else 0x20#8 := by decide
  rw [putBits_mask x 5 _ (by decide), hbit]
  rfl

theorem not_getBits_repeated : ∀ x : Byte, ~~~getBits x 5 1 = if x &&& 0x20#8 = 0x00#8 then 1#1 else 0#1 := by decide

/-- Settles O4, field by field: the repeat bit inverted, the priority as it is. -/
theorem controlOctetFields : Obligations.ControlOctetFields := by
  intro sel r p s hs
  exact ⟨op_commandWord (by decide), op_commandWord (by decide), op_commandWord (by decide),
    op_commandWord (by decide), fieldSetter hs rfl (putBits_not_repeated _ r),
    fieldSetter hs rfl (putBits_mask _ 2 p (by decide)), getter hs (congrArg Result.flag (not_getBits_repeated _)),
    getter hs (congrArg Result.code2 (getBits_eq_shift _ 2 2))⟩

/-! ## Addresses (R110 to R115) -/

theorem read_putSource (s : State) (sel : Buf) (hi lo : Byte) (a : Nat) :
    (s.putSource sel hi lo).mem.read a =
      if a = addr sel 1 then hi else if a = addr sel 2 then lo else s.mem.read a := by
  rw [State.putSource, State.read_setByte, State.read_setByte,
    ite_ite_comm (a = addr sel 2) (a = addr sel 1) _ _ (ne_addr_of_eq_addr (by decide))]

theorem read_putTarget (s : State) (sel : Buf) (hi lo : Byte) (kind : BitVec 1) (a : Nat) :
    (s.putTarget sel hi lo kind).mem.read a =
      if a = addr sel 3 then hi else if a = addr sel 4 then lo
      else if a = addr sel 5 then putBits (s.byte sel 5) 7 kind else s.mem.read a := by
  rw [State.putTarget, State.read_setField, State.read_setByte, State.read_setByte,
    State.byte_setByte_ne _ _ _ (by decide), State.byte_setByte_ne _ _ _ (by decide),
    ite_ite_comm (a = addr sel 4) (a = addr sel 3) _ _ (ne_addr_of_eq_addr (by decide)),
    ite_ite_comm (a = addr sel 5) (a = addr sel 3) _ _ (ne_addr_of_eq_addr (by decide)),
    ite_ite_comm (a = addr sel 5) (a = addr sel 4) _ _ (ne_addr_of_eq_addr (by decide))]

/-- The target-type flag set and cleared. -/
theorem putBits_targetType : ∀ x : Byte, putBits x 7 1#1 = x ||| 0x80#8 ∧ putBits x 7 0#1 = x &&& 0x7F#8 := by decide

/-- Settles O5, by what the writes of a source and of a target leave to be read. -/
theorem addressSetters : Obligations.AddressSetters := by
  intro sel area line main middle low s hs
  obtain ⟨hgroup, hindividual⟩ := putBits_targetType (s.byte sel 5)
  refine ⟨op_commandWord (by decide), op_commandWord (by decide), op_commandWord (by decide),
    setter hs rfl (s.putSource_frame sel _ _) fun a => ?_, setter hs rfl (s.putTarget_frame sel _ _ _) fun a => ?_,
    setter hs rfl (s.putTarget_frame sel _ _ _) fun a => ?_⟩
  · rw [read_putSource, append_eq_shift_or]
  · rw [read_putTarget, append_eq_shift_or, hgroup]
  · rw [read_putTarget, append_eq_shift_or, hindividual]

theorem putSource_done {s t : State} {sel : Buf} {hi lo : Byte}
    (h : whenIdle s (answer (s.putSource sel hi lo) .empty) = .next t) :
    t.seq = .idle ∧ t.byte sel 1 = hi ∧ t.byte sel 2 = lo := by
  obtain ⟨hs, rfl⟩ := command_done h
  refine ⟨hs, (read_putSource s sel hi lo _).trans (if_pos rfl), (read_putSource s sel hi lo _).trans ?_⟩
  rw [if_neg (ne_addr_of_eq_addr (by decide) rfl), if_pos rfl]

theorem putTarget_done {s t : State} {sel : Buf} {hi lo : Byte} {kind : BitVec 1}
    (h : whenIdle s (answer (s.putTarget sel hi lo kind) .empty) = .next t) :
    t.seq = .idle ∧ t.byte sel 3 = hi ∧ t.byte sel 4 = lo ∧ t.field sel 5 7 1 = kind := by
  obtain ⟨hs, rfl⟩ := command_done h
  have hread := read_putTarget s sel hi lo kind
  have ne {i j : Nat} (hij : i ≠ j) : ¬ addr sel i = addr sel j := ne_addr_of_eq_addr hij rfl
  refine ⟨hs, (hread _).trans (if_pos rfl), (hread _).trans ?_, ?_⟩
  · rw [if_neg (ne (by decide)), if_pos rfl]
  · have h5 : (s.putTarget sel hi lo kind).byte sel 5 = putBits (s.byte sel 5) 7 kind := by
      rw [State.byte, hread, if_neg (ne (by decide)), if_neg (ne (by decide)), if_pos rfl]
    exact (congrArg (getBits · 7 1) h5).trans (getBits_putBits_same _ 7 kind (by decide))

theorem individualAt_of_bytes {s : State} {sel : Buf} {i : Nat} {area line : BitVec 4} {member : Byte}
    (hhigh : s.byte sel i = area ++ line) (hlow : s.byte sel (i + 1) = member) :
    s.individualAt sel i = .individual area line member := by
  rw [State.individualAt, State.field, State.field, hhigh, hlow]
  exact congrArg₂ (Result.individual · · member) BitVec.extractLsb'_append_eq_left BitVec.extractLsb'_append_eq_right

theorem groupAt_of_bytes {s : State} {sel : Buf} {i : Nat} {main : BitVec 5} {middle : BitVec 3} {sub : Byte}
    (hhigh : s.byte sel i = main ++ middle) (hlow : s.byte sel (i + 1) = sub) :
    s.groupAt sel i = .group main middle sub := by
  rw [State.groupAt, State.field, State.field, hhigh, hlow]
  exact congrArg₂ (Result.group · · sub) BitVec.extractLsb'_append_eq_left BitVec.extractLsb'_append_eq_right

theorem getSourceAddress_after_set {sel : Buf} {area line : BitVec 4} {member : Byte} {s t : State}
    (h : exec (.setSourceAddress sel area line member) s = .next t) :
    exec (.getSourceAddress sel) t = .next (t.setResult (some (.individual area line member))) := by
  obtain ⟨ht, h1, h2⟩ := putSource_done h
  exact getter ht (individualAt_of_bytes h1 h2)

theorem individualAt_eq_shift (s : State) (sel : Buf) (i : Nat) : s.individualAt sel i =
    .individual ((s.byte sel i >>> 4).setWidth 4) ((s.byte sel i).setWidth 4) (s.byte sel (i + 1)) := by
  rw [State.individualAt, State.field, State.field, getBits_eq_shift, getBits_zero]

theorem groupAt_eq_shift (s : State) (sel : Buf) (i : Nat) : s.groupAt sel i =
    .group ((s.byte sel i >>> 3).setWidth 5) ((s.byte sel i).setWidth 3) (s.byte sel (i + 1)) := by
  rw [State.groupAt, State.field, State.field, getBits_eq_shift, getBits_zero]

/-- Settles O6: no getter looks at the target-type flag. -/
theorem addressGetters : Obligations.AddressGetters := by
  intro sel area line member s hs
  exact ⟨op_commandWord (by decide), op_commandWord (by decide), op_commandWord (by decide),
    getter hs (individualAt_eq_shift s sel 1), getter hs (groupAt_eq_shift s sel 3),
    getter hs (individualAt_eq_shift s sel 3), fun _ => getSourceAddress_after_set⟩

/-! ## Bytes 5 and 6 (R116 to R125) -/

/-- Settles O7, field by field. -/
theorem byteFiveFields : Obligations.ByteFiveFields := by
  intro sel g rc s hs
  exact ⟨op_commandWord (by decide), op_commandWord (by decide), op_commandWord (by decide),
    op_commandWord (by decide), fieldSetter hs rfl (putBits_mask _ 7 g (by decide)),
    fieldSetter hs rfl (putBits_mask _ 4 rc (by decide)), getter hs (congrArg Result.flag (getBits_eq_shift _ 7 1)),
    getter hs (congrArg Result.code3 (getBits_eq_shift _ 4 3))⟩

/-- Settles O8, field by field. -/
theorem transportControlFields : Obligations.TransportControlFields := by
  intro sel ct sn cd s hs
  exact ⟨op_commandWord (by decide), op_commandWord (by decide), op_commandWord (by decide),
    op_commandWord (by decide), op_commandWord (by decide), op_commandWord (by decide),
    fieldSetter hs rfl (putBits_mask _ 6 ct (by decide)), fieldSetter hs rfl (putBits_mask _ 2 sn (by decide)),
    fieldSetter hs rfl (putBits_zero_mask _ cd (by decide)),
    getter hs (congrArg Result.code2 (getBits_eq_shift _ 6 2)),
    getter hs (congrArg Result.code4 (getBits_eq_shift _ 2 4)), getter hs (congrArg Result.code2 (getBits_zero _ 2))⟩

/-! ## The application-control field (R127 to R134) -/

/-- The effect of SET_COMMAND: the two bits of byte 6 and the two of byte 7 (R127). -/
def State.putCommand (s : State) (sel : Buf) (c : BitVec 4) : State :=
  (s.setField sel 6 0 (c.extractLsb' 2 2)).setField sel 7 6 (c.extractLsb' 0 2)

theorem exec_setCommand (sel : Buf) (c : BitVec 4) (s : State) :
    exec (.setCommand sel c) s = whenIdle s (answer (s.putCommand sel c) .empty) := rfl

theorem read_putCommand (s : State) (sel : Buf) (c : BitVec 4) (a : Nat) :
    (s.putCommand sel c).mem.read a =
      if a = addr sel 6 then putBits (s.byte sel 6) 0 (c.extractLsb' 2 2)
      else if a = addr sel 7 then putBits (s.byte sel 7) 6 (c.extractLsb' 0 2) else s.mem.read a := by
  have h7 : (s.setField sel 6 0 (c.extractLsb' 2 2)).byte sel 7 = s.byte sel 7 :=
    s.byte_setByte_ne sel _ (by decide)
  rw [State.putCommand, State.read_setField, State.read_setField, h7,
    ite_ite_comm (a = addr sel 7) (a = addr sel 6) _ _ (ne_addr_of_eq_addr (by decide))]

/-- The upper two bits of the command into byte 6. -/
theorem putBits_command_high (x : Byte) (c : BitVec 4) :
    putBits x 0 (c.extractLsb' 2 2) = (x &&& 0xFC#8) ||| (c.setWidth 8 >>> 2) := by
  have hbits : ∀ c : BitVec 4, (c.extractLsb' 2 2).setWidth 8 = c.setWidth 8 >>> 2 := by decide
  rw [putBits_zero_mask x _ (by decide), hbits]
  rfl

/-- The lower two bits of the command into byte 7. -/
theorem putBits_command_low (x : Byte) (c : BitVec 4) :
    putBits x 6 (c.extractLsb' 0 2) = (x &&& 0x3F#8) ||| (c.setWidth 8 <<< 6) := by
  have hbits : ∀ c : BitVec 4, (c.extractLsb' 0 2).setWidth 8 <<< 6 = c.setWidth 8 <<< 6 := by decide
  rw [putBits_mask x 6 _ (by decide), hbits]
  rfl

theorem cmd4_eq_shift_or (s : State) (sel : Buf) :
    s.cmd4 sel = ((s.byte sel 6).setWidth 4 <<< 2) ||| (s.byte sel 7 >>> 6).setWidth 4 := by
  have hhigh : ∀ x : Byte, (getBits x 0 2).setWidth 4 <<< 2 = x.setWidth 4 <<< 2 := by decide
  have hlow : ∀ x : Byte, (getBits x 6 2).setWidth 4 = (x >>> 6).setWidth 4 := by decide
  rw [State.cmd4, append_eq_shift_or, State.field, State.field, hhigh, hlow]

theorem ext6_eq (s : State) (sel : Buf) : s.ext6 sel = (s.byte sel 7).setWidth 6 := getBits_zero _ 6

/-- Settles O9: the command is two fields in two bytes, the six bits after it are one. -/
theorem applicationControlFields : Obligations.ApplicationControlFields := by
  intro sel c x s hs
  refine ⟨op_commandWord (by decide), op_commandWord (by decide), op_commandWord (by decide),
    op_commandWord (by decide), op_commandWord (by decide), op_commandWord (by decide),
    setter hs (exec_setCommand sel c s) rfl fun a => ?_,
    fieldSetter hs rfl (putBits_zero_mask _ x (by decide)), fieldSetter hs rfl (putBits_zero_mask _ x (by decide)),
    getter hs (congrArg Result.code4 (cmd4_eq_shift_or s sel)), getter hs (congrArg Result.code6 (ext6_eq s sel)),
    getter hs (congrArg Result.code6 (ext6_eq s sel))⟩
  rw [read_putCommand, putBits_command_high, putBits_command_low]

theorem cmd4_putCommand (s : State) (sel : Buf) (c : BitVec 4) : (s.putCommand sel c).cmd4 sel = c := by
  have h6 : (s.putCommand sel c).field sel 6 0 2 = c.extractLsb' 2 2 := by
    rw [State.field, State.byte, read_putCommand, if_pos rfl, getBits_putBits_same _ _ _ (by decide)]
  have h7 : (s.putCommand sel c).field sel 7 6 2 = c.extractLsb' 0 2 := by
    rw [State.field, State.byte, read_putCommand, if_neg (ne_addr_of_eq_addr (by decide) rfl), if_pos rfl,
      getBits_putBits_same _ _ _ (by decide)]
  rw [State.cmd4, h6, h7]
  exact BitVec.extractLsb'_append_extractLsb'

theorem getCommand_after_set {sel : Buf} {c : BitVec 4} {s t : State} (h : exec (.setCommand sel c) s = .next t) :
    exec (.getCommand sel) t = .next (t.setResult (some (.code4 c))) := by
  obtain ⟨hs, ht⟩ := command_done ((exec_setCommand sel c s).symm.trans h)
  have hidle : t.seq = .idle := by rw [ht]; exact hs
  have hc : t.cmd4 sel = c := by rw [ht]; exact cmd4_putCommand s sel c
  exact getter hidle (congrArg Result.code4 hc)

/-- Settles O11: the two names share their meaning, and the command begins with the control data. -/
theorem sharedFields : Obligations.SharedFields := by
  intro sel x s t u cd c _
  refine ⟨rfl, rfl, fun ht hu hcd hc => ?_⟩
  obtain ⟨-, rfl⟩ := command_done ht
  obtain ⟨-, rfl⟩ := command_done hu
  cases hcd
  cases hc
  exact BitVec.extractLsb'_append_eq_left.symm

/-! ## The application command (R126, 30_encoding.md R82 to R85) -/

/-- The table read as the spec lists it: the 4-bit commands whatever follows them, the 10-bit ones by all their bits. -/
theorem appCommandCode_appCommandOf : ∀ (c : BitVec 4) (x : BitVec 6),
    appCommandCode (appCommandOf c x) = appCodeOf c.toNat x.toNat := by decide

/-- The two control types (30_encoding.md R77). -/
theorem commType_control_iff (s : State) (sel : Buf) :
    (s.commType sel = commUcd ↔ s.byte sel 6 >>> 6 = 0b10#8) ∧
    (s.commType sel = commNcd ↔ s.byte sel 6 >>> 6 = 0b11#8) := by
  rw [State.commType, State.field]
  generalize s.byte sel 6 = b
  revert b
  decide

theorem payloadLength_lt_two_iff (s : State) (sel : Buf) :
    s.payloadLength sel < 2 ↔ s.byte sel 5 &&& 0x0F#8 = 0#8 := by
  rw [payloadLength_eq, ← BitVec.toNat_inj, BitVec.toNat_ofNat]
  omega

theorem toNat_cmd4 (s : State) (sel : Buf) :
    (s.cmd4 sel).toNat = (s.byte sel 6 &&& 0x03#8).toNat * 4 + (s.byte sel 7 >>> 6).toNat := by
  have hhigh : ∀ x : Byte, (getBits x 0 2).toNat = (x &&& 0x03#8).toNat := by decide
  have hlow : ∀ x : Byte, (getBits x 6 2).toNat = (x >>> 6).toNat := by decide
  rw [State.cmd4, BitVec.toNat_append, ← Nat.shiftLeft_add_eq_or_of_lt (BitVec.isLt _), Nat.shiftLeft_eq, State.field,
    State.field, hhigh, hlow]

theorem toNat_ext6 (s : State) (sel : Buf) : (s.ext6 sel).toNat = (s.byte sel 7 &&& 0x3F#8).toNat := by
  have hbits : ∀ x : Byte, (getBits x 0 6).toNat = (x &&& 0x3F#8).toNat := by decide
  exact hbits (s.byte sel 7)

/-- Settles O10: the guard of UNKNOWN, condition by condition, then the table's entry. -/
theorem decodeAppCommandNames : Obligations.DecodeAppCommandNames := by
  intro sel s hs
  refine ⟨op_commandWord (by decide), getter hs (congrArg Result.code5 ?_)⟩
  obtain ⟨hucd, hncd⟩ := commType_control_iff s sel
  rw [State.appCommand, apply_ite appCommandCode, appCommandCode_appCommandOf, toNat_cmd4, toNat_ext6]
  exact if_congr (or_congr hucd (or_congr hncd (payloadLength_lt_two_iff s sel))) rfl rfl

/-! ## Every field reads back (R104, R111, 30_encoding.md R80) -/

theorem getTargetGroup_after_set {sel : Buf} {main : BitVec 5} {middle : BitVec 3} {sub : Byte} {s t : State}
    (h : exec (.setTargetGroup sel main middle sub) s = .next t) :
    exec (.getTargetGroup sel) t = .next (t.setResult (some (.group main middle sub))) ∧
    exec (.isTargetGroup sel) t = .next (t.setResult (some (.flag 1#1))) := by
  obtain ⟨ht, h3, h4, hkind⟩ := putTarget_done h
  exact ⟨getter ht (groupAt_of_bytes h3 h4), getter ht (congrArg Result.flag hkind)⟩

theorem getTargetIndividual_after_set {sel : Buf} {area line : BitVec 4} {member : Byte} {s t : State}
    (h : exec (.setTargetIndividual sel area line member) s = .next t) :
    exec (.getTargetIndividual sel) t = .next (t.setResult (some (.individual area line member))) ∧
    exec (.isTargetGroup sel) t = .next (t.setResult (some (.flag 0#1))) := by
  obtain ⟨ht, h3, h4, hkind⟩ := putTarget_done h
  exact ⟨getter ht (individualAt_of_bytes h3 h4), getter ht (congrArg Result.flag hkind)⟩

/-- The repeat flag is stored inverted and read inverted. -/
theorem isRepeated_after_set {sel : Buf} {r : BitVec 1} {s t : State} (h : exec (.setRepeated sel r) s = .next t) :
    exec (.isRepeated sel) t = .next (t.setResult (some (.flag r))) := by
  have hback := field_readBack (fun b => Result.flag (~~~b)) (by decide) h
  rwa [BitVec.not_not] at hback

/-- Settles O13, pair by pair. -/
theorem fieldsReadBack : Obligations.FieldsReadBack := by
  intro sel s t
  exact ⟨fun _ _ => getByte_after_setByte, fun _ => getPayloadLength_after_set,
    fun _ _ _ => getSourceAddress_after_set, fun _ => isRepeated_after_set,
    fun _ => field_readBack .code2 (by decide), fun _ _ _ => getTargetGroup_after_set,
    fun _ _ _ => getTargetIndividual_after_set, fun _ => field_readBack .flag (by decide),
    fun _ => field_readBack .code3 (by decide), fun _ => field_readBack .code2 (by decide),
    fun _ => field_readBack .code4 (by decide), fun _ => field_readBack .code2 (by decide),
    fun _ => getCommand_after_set, fun _ => field_readBack .code6 (by decide),
    fun _ => field_readBack .code6 (by decide)⟩

end Sys2Proof.Machine
end

section
/-! PROOFS. The checksum (42_checksum.md): what its four commands answer and store, and what VERIFY_CHECKSUM detects.

Everything turns on one number, the XOR from 0xFF of all bytes up to and including the stored checksum (`telegramXor`):
a telegram verifies exactly when it is 0, and a byte changed by the pattern `d` changes it by `d`. -/

namespace Sys2Proof.Machine

/-! ## The four commands (R150 to R154) -/

theorem read_putChecksum (s : State) (sel : Buf) (a : Nat) :
    (s.putChecksum sel).mem.read a =
      s.readPatched sel (6 + s.payloadLength sel) (s.xorBelow sel (6 + s.payloadLength sel)) a := by
  rw [State.putChecksum, State.read_setByte, checksum_eq]
  rfl

theorem checksumOk_iff (s : State) (sel : Buf) : s.checksumOk sel = true ↔
    s.byte sel (6 + s.payloadLength sel) = s.xorBelow sel (6 + s.payloadLength sel) := by
  rw [State.checksumOk, beq_iff_eq, checksum_eq]
  rfl

theorem ofBool_checksumOk (s : State) (sel : Buf) : BitVec.ofBool (s.checksumOk sel) =
    if s.byte sel (6 + s.payloadLength sel) = s.xorBelow sel (6 + s.payloadLength sel) then 1#1 else 0#1 := by
  rw [← if_congr (checksumOk_iff s sel) rfl rfl]
  cases s.checksumOk sel <;> rfl

theorem exec_verifyChecksum {s : State} (hs : s.seq = .idle) (sel : Buf) :
    exec (.verifyChecksum sel) s = .next (s.setResult (some (.flag (BitVec.ofBool (s.checksumOk sel))))) :=
  getter hs rfl

/-- Settles O14, command by command. -/
theorem checksumOperations : Obligations.ChecksumOperations := by
  intro sel s hs
  exact ⟨op_commandWord (by decide), op_commandWord (by decide), op_commandWord (by decide),
    op_commandWord (by decide), getter hs (congrArg Result.byte (checksum_eq s sel)),
    setter hs rfl (s.putChecksum_frame sel) (read_putChecksum s sel),
    getter hs (congrArg Result.flag (ofBool_checksumOk s sel)), getter hs rfl⟩

/-! ## When a telegram verifies (R155) -/

/-- The XOR from 0xFF of bytes 0 to 6 + n, the stored checksum included. -/
def State.telegramXor (s : State) (sel : Buf) : Byte := s.xorBelow sel (6 + s.payloadLength sel + 1)

theorem checksumOk_iff_telegramXor (s : State) (sel : Buf) : s.checksumOk sel = true ↔ s.telegramXor sel = 0#8 :=
  (checksumOk_iff s sel).trans verify_iff_xor

theorem verifyChecksum_accepts_iff {s : State} (hs : s.seq = .idle) (sel : Buf) :
    exec (.verifyChecksum sel) s = .next (s.setResult (some (.flag 1#1))) ↔ s.checksumOk sel = true := by
  obtain ⟨haccepts, hrejects⟩ := flag_answer Iff.rfl (exec_verifyChecksum hs sel)
  refine ⟨fun h => by_contra fun hbad => ?_, haccepts⟩
  have hflag := congrArg State.result (Host.Outcome.next.inj (h.symm.trans (hrejects hbad)))
  cases hflag

/-- The checksum position is none of the bytes the checksum is computed from, and not the length's byte. -/
theorem checksumOk_putChecksum (s : State) (sel : Buf) : (s.putChecksum sel).checksumOk sel = true := by
  have hbelow : ∀ k < 6 + s.payloadLength sel, (s.putChecksum sel).byte sel k = s.byte sel k :=
    fun k hk => s.byte_setByte_ne sel _ (Nat.ne_of_lt hk)
  have hlen : (s.putChecksum sel).payloadLength sel = s.payloadLength sel :=
    State.payloadLength_congr (hbelow 5 (by omega))
  rw [checksumOk_iff, hlen, xorBelow_congr hbelow, ← checksum_eq]
  exact s.byte_setByte_same sel _ _

/-- Settles O15: the three forms of "it verifies" are one, and CREATE_CHECKSUM stores the byte that is compared. -/
theorem checksumRoundTrip : Obligations.ChecksumRoundTrip := by
  intro sel s t hs
  have hxor : s.xorBelow sel (6 + s.payloadLength sel + 1) ^^^ 0xFF#8 = 0xFF#8 ↔ s.telegramXor sel = 0#8 :=
    BitVec.xor_left_inj (y := 0#8) 0xFF#8
  refine ⟨(verifyChecksum_accepts_iff hs sel).trans (checksumOk_iff s sel),
    ((verifyChecksum_accepts_iff hs sel).trans (checksumOk_iff_telegramXor s sel)).trans hxor.symm, fun h => ?_⟩
  obtain ⟨-, rfl⟩ := command_done h
  exact (verifyChecksum_accepts_iff (s := (s.putChecksum sel).setResult _) hs sel).mpr (checksumOk_putChecksum s sel)

/-! ## What is detected (R156) -/

/-- A flipped bit above the length field of byte 5 leaves the length. -/
theorem payloadLength_of_flip {s t : State} {sel : Buf} {b : Nat} (hb : b < 8) (hlow : 4 ≤ b)
    (h : t.byte sel 5 = s.byte sel 5 ^^^ (1#8 <<< b)) : t.payloadLength sel = s.payloadLength sel := by
  have hkept : ∀ b < 8, 4 ≤ b → ∀ x : Byte, (x ^^^ (1#8 <<< b)) &&& 0x0F#8 = x &&& 0x0F#8 := by decide
  rw [payloadLength_eq, payloadLength_eq, h, hkept b hb hlow]

/-- SET_BYTE with one bit flipped, the length field apart: the length stays and the flip shows in the XOR. -/
theorem setByte_flip_done {s t : State} {sel : Buf} {j b : Nat} (hj : j ≤ 6 + s.payloadLength sel)
    (hb : b < 8) (hlength : j = 5 → 4 ≤ b)
    (h : exec (.setByte sel (BitVec.ofNat 5 j) (s.byte sel j ^^^ (1#8 <<< b))) s = .next t) :
    t.seq = .idle ∧ t.payloadLength sel = s.payloadLength sel ∧
    t.telegramXor sel = s.telegramXor sel ^^^ (1#8 <<< b) ∧ ∀ k ≤ 22, k ≠ j → t.byte sel k = s.byte sel k := by
  have hpos := s.payloadLength_le sel
  obtain ⟨hidle, hbyte⟩ := setByte_done (by omega) h
  have hlen : t.payloadLength sel = s.payloadLength sel := by
    by_cases h5 : j = 5
    · subst h5
      exact payloadLength_of_flip hb (hlength rfl) ((hbyte 5 (by decide)).trans (if_pos rfl))
    · exact State.payloadLength_congr ((hbyte 5 (by decide)).trans (if_neg (Ne.symm h5)))
  refine ⟨hidle, hlen, ?_, fun k hk hne => (hbyte k hk).trans (if_neg hne)⟩
  rw [State.telegramXor, hlen]
  refine xorBelow_flip _ (Nat.lt_succ_of_le hj) fun k hk => ?_
  rw [hbyte k (by omega)]
  split
  next e => rw [e]
  next => rfl

/-- Settles O16: from XOR 0, one flip leaves the flipped bit, and a second flip of that bit takes it away again. -/
theorem checksumDetection : Obligations.ChecksumDetection := by
  intro sel s j k b hs hok hj hk hb hj5 hk5
  have hzero : s.telegramXor sel = 0#8 := verify_iff_xor.mp hok
  have hbit : ∀ b < 8, (1#8 <<< b) ≠ 0#8 := by decide
  refine ⟨fun t ht => ?_, fun hjk t u ht hu => ?_⟩
  · obtain ⟨hidle, -, hxor, -⟩ := setByte_flip_done hj hb hj5 ht
    rw [hzero, BitVec.zero_xor] at hxor
    refine (flag_answer (checksumOk_iff_telegramXor t sel) (exec_verifyChecksum hidle sel)).2 ?_
    rw [hxor]
    exact hbit b hb
  · obtain ⟨hidle, hlen, hxor, hkeep⟩ := setByte_flip_done hj hb hj5 ht
    have hpos := s.payloadLength_le sel
    rw [← hkeep k (by omega) hjk.symm] at hu
    obtain ⟨hidle', -, hxor', -⟩ := setByte_flip_done (hlen ▸ hk) hb hk5 hu
    refine (verifyChecksum_accepts_iff hidle' sel).mpr ((checksumOk_iff_telegramXor u sel).mpr ?_)
    rw [hxor', hxor, hzero, BitVec.zero_xor, BitVec.xor_self]

end Sys2Proof.Machine
end

section
/-! PROOFS. The datapoints (43_datapoint.md): what each encoder stores, what each decoder reads, and that a value
encoded is the value decoded.

Every encoder is one `putValue`, the length field and then a list of bytes, so what it leaves to be read is said once
(`read_putValue_eq`, `putValue_done`). The 2-byte float has its range, its rounding and the number its two bytes stand for
besides. -/

namespace Sys2Proof.Machine

/-! ## What an encoder leaves (R160, R161) -/

/-- What address `a` reads as after the bytes `l` are stored from byte `i` on, byte by byte. -/
def State.readFilled (s : State) (sel : Buf) (a i : Nat) : List Byte → Byte
  | [] => s.mem.read a
  | b :: r => if a = addr sel i then b else s.readFilled sel a (i + 1) r

/-- A run of bytes does not reach down to a byte stored below it. -/
theorem readFilled_setByte (s : State) (sel : Buf) (v : Byte) (a : Nat) {i j : Nat} (l : List Byte) (hij : i < j) :
    (s.setByte sel i v).readFilled sel a j l = if a = addr sel i then v else s.readFilled sel a j l := by
  induction l generalizing j with
  | nil => exact s.read_setByte sel i a v
  | cons b r ih =>
    rw [State.readFilled, State.readFilled, ih (by omega),
      ite_ite_comm (a = addr sel j) (a = addr sel i) _ _ (ne_addr_of_eq_addr (Nat.ne_of_gt hij))]

theorem read_fill_eq_readFilled (s : State) (sel : Buf) (a i : Nat) (l : List Byte) :
    (s.fill sel i l).mem.read a = s.readFilled sel a i l := by
  induction l generalizing s i with
  | nil => rfl
  | cons b r ih =>
    rw [State.fill, ih, readFilled_setByte s sel b a r (Nat.lt_succ_self i)]
    rfl

/-- The length field lies below the value bytes, so it comes first. -/
theorem read_putValue_eq (s : State) (sel : Buf) (n a : Nat) (l : List Byte) :
    (s.putValue sel n l).mem.read a =
      if a = addr sel 5 then putBits (s.byte sel 5) 0 (BitVec.ofNat 4 (n - 1)) else s.readFilled sel a 8 l := by
  rw [State.putValue, read_fill_eq_readFilled, State.putLength, State.setField,
    readFilled_setByte _ _ _ _ _ (by decide)]

/-- An encoder completes with its length field, whose code is `w`, and its value bytes. -/
theorem encoder {i : Instr} {s : State} {sel : Buf} {n : Nat} {l : List Byte} {f : Nat → Byte} (w : Byte)
    (hs : s.seq = .idle) (he : exec i s = whenIdle s (answer (s.putValue sel n l) .empty))
    (hw : (BitVec.ofNat 4 (n - 1)).setWidth 8 = w)
    (hf : ∀ a, (if a = addr sel 5 then (s.byte sel 5 &&& 0xF0#8) ||| w else s.readFilled sel a 8 l) = f a) :
    Completes i s .empty f :=
  setter hs he (s.putValue_frame sel n l) fun a => by
    rw [read_putValue_eq, putBits_length _ _ _ w rfl hw, hf]

/-- An encoder leaves its length and its value bytes to be read. -/
theorem putValue_done {s t : State} {sel : Buf} {n : Nat} {l : List Byte} (hn : 1 ≤ n ∧ n ≤ 16)
    (h : whenIdle s (answer (s.putValue sel n l) .empty) = .next t) :
    t.seq = .idle ∧ t.payloadLength sel = n ∧ ∀ k < l.length, t.byte sel (8 + k) = l.getD k 0x00#8 := by
  obtain ⟨hs, rfl⟩ := command_done h
  have hidle : (s.putValue sel n l).seq = .idle := by
    rw [State.putValue_frame]
    exact hs
  have hfield : (s.putValue sel n l).field sel 5 0 4 = BitVec.ofNat 4 (n - 1) := by
    rw [State.field, State.byte, read_putValue_eq, if_pos rfl, getBits_putBits_same _ _ _ (by decide)]
  refine ⟨hidle, ?_, fun k hk => ?_⟩
  · show ((s.putValue sel n l).field sel 5 0 4).toNat + 1 = n
    rw [hfield, BitVec.toNat_ofNat]
    omega
  · show (s.putValue sel n l).mem.read (addr sel (8 + k)) = _
    rw [read_putValue, addr_add, if_pos (by omega), Nat.add_sub_cancel_left]

/-! ## Encoders (R163, R171, R173, R176) -/

/-- The fourteen text bytes as the range they fill. -/
theorem readFilled_text (s : State) (sel : Buf) (a : Nat) (x : Vector Byte 14) :
    s.readFilled sel a 8 x.toList =
      if addr sel 8 ≤ a ∧ a ≤ addr sel 21 then x.toList.getD (a - addr sel 8) 0x00#8 else s.mem.read a := by
  have hrange : addr sel 8 ≤ a ∧ a < addr sel 8 + 14 ↔ addr sel 8 ≤ a ∧ a ≤ addr sel 21 := by
    rw [addr_eq sel 8, addr_eq sel 21]
    omega
  rw [← read_fill_eq_readFilled, State.read_fill, Vector.length_toList]
  exact if_congr hrange rfl rfl

/-- Settles O17: each encoder is its length and its bytes, the fields of a time and of a float as shifts. -/
theorem datapointEncoders : Obligations.DatapointEncoders := by
  intro sel v f x wd h mi sec s hs
  refine ⟨op_commandWord (by decide), op_commandWord (by decide), op_commandWord (by decide),
    op_commandWord (by decide), encoder 0x02#8 hs rfl rfl fun _ => rfl, encoder 0x05#8 hs rfl rfl fun a => ?_,
    encoder 0x0F#8 hs rfl rfl fun a => ?_, encoder 0x04#8 hs rfl rfl fun a => ?_⟩
  · rw [BitVec.setWidth_ushiftRight_eq_extractLsb, BitVec.setWidth_ushiftRight_eq_extractLsb,
      BitVec.setWidth_ushiftRight_eq_extractLsb, BitVec.setWidth_eq_extractLsb' (by decide)]
    rfl
  · rw [readFilled_text]
  · rw [append_eq_shift_or]
    rfl

/-! ## Decoders (R162, R164, R172, R174, R177, R178) -/

/-- A decoder answers its value, or its invalid value on another length. -/
theorem decoder {α : Type} {s : State} {sel : Buf} {n : Nat} {v v' w : α} (row : α → Result) (hs : s.seq = .idle)
    (hv : v = v') :
    whenIdle s (answer s (if s.payloadLength sel = n then row v else row w)) =
      .next (s.setResult (some (row (if s.payloadLength sel = n then v' else w)))) :=
  getter hs (by rw [hv, apply_ite row])

/-- A decoder on its own length answers its value. -/
theorem decoder_of_length {s : State} {sel : Buf} {n : Nat} {r r' r₀ : Result} (hs : s.seq = .idle)
    (hn : s.payloadLength sel = n) (hr : r = r') :
    whenIdle s (answer s (if s.payloadLength sel = n then r else r₀)) = .next (s.setResult (some r')) :=
  getter hs ((if_pos hn).trans hr)

theorem timeAt_eq_shift (s : State) (sel : Buf) :
    Result.time (s.field sel 8 5 3) (s.field sel 8 0 5) (s.field sel 9 0 6) (s.field sel 10 0 6) =
      .time ((s.byte sel 8 >>> 5).setWidth 3) ((s.byte sel 8).setWidth 5) ((s.byte sel 9).setWidth 6)
        ((s.byte sel 10).setWidth 6) := by
  rw [State.field, State.field, State.field, State.field, getBits_eq_shift, getBits_zero, getBits_zero, getBits_zero]

/-- Settles O18, decoder by decoder. -/
theorem datapointDecoders : Obligations.DatapointDecoders := by
  intro sel s hs
  exact ⟨op_commandWord (by decide), op_commandWord (by decide), op_commandWord (by decide),
    op_commandWord (by decide), op_commandWord (by decide), decoder .flag hs (getBits_zero _ 1), decoder .byte hs rfl,
    decoder .word32 hs BitVec.append_assoc', decoder .text hs rfl,
    getter hs (if_congr Iff.rfl (timeAt_eq_shift s sel) rfl)⟩

/-! ## Values read back (R162 to R177) -/

theorem get1ByteInt_after_set {sel : Buf} {v : Byte} {s t : State} (h : exec (.set1ByteInt sel v) s = .next t) :
    exec (.get1ByteInt sel) t = .next (t.setResult (some (.byte v))) := by
  obtain ⟨ht, hlen, hbyte⟩ := putValue_done (by decide) h
  exact decoder_of_length ht hlen (congrArg Result.byte (hbyte 0 (by simp)))

/-- Four bytes side by side are the word they were cut from. -/
theorem extractLsb'_bytes (f : BitVec 32) :
    (f.extractLsb' 24 8 ++ f.extractLsb' 16 8) ++ (f.extractLsb' 8 8 ++ f.extractLsb' 0 8) = f := by
  rw [BitVec.extractLsb'_append_extractLsb'_eq_extractLsb' (start₁ := 16) (len₁ := 8) rfl,
    BitVec.extractLsb'_append_extractLsb'_eq_extractLsb' (start₁ := 0) (len₁ := 8) rfl]
  exact BitVec.extractLsb'_append_extractLsb'

theorem get4ByteFloat_after_set {sel : Buf} {f : BitVec 32} {s t : State}
    (h : exec (.set4ByteFloat sel f) s = .next t) :
    exec (.get4ByteFloat sel) t = .next (t.setResult (some (.word32 f))) := by
  obtain ⟨ht, hlen, hbyte⟩ := putValue_done (by decide) h
  have h8 : t.byte sel 8 = f.extractLsb' 24 8 := hbyte 0 (by simp)
  have h9 : t.byte sel 9 = f.extractLsb' 16 8 := hbyte 1 (by simp)
  have h10 : t.byte sel 10 = f.extractLsb' 8 8 := hbyte 2 (by simp)
  have h11 : t.byte sel 11 = f.extractLsb' 0 8 := hbyte 3 (by simp)
  refine decoder_of_length ht hlen (congrArg Result.word32 ?_)
  rw [State.word16, State.word16, h8, h9, h10, h11, extractLsb'_bytes]

theorem get14ByteText_after_set {sel : Buf} {x : Vector Byte 14} {s t : State}
    (h : exec (.set14ByteText sel x) s = .next t) :
    exec (.get14ByteText sel) t = .next (t.setResult (some (.text x))) := by
  obtain ⟨ht, hlen, hbyte⟩ := putValue_done (by decide) h
  refine decoder_of_length ht hlen (congrArg Result.text (Vector.ext fun k hk => ?_))
  have hk' : k < x.toList.length := by rwa [Vector.length_toList]
  rw [State.textAt, Vector.getElem_ofFn, hbyte k hk', List.getD_eq_getElem _ _ hk', Vector.getElem_toList]

theorem getTime_after_set {sel : Buf} {wd : BitVec 3} {hr : BitVec 5} {mi sec : BitVec 6} {s t : State}
    (h : exec (.setTime sel wd hr mi sec) s = .next t) :
    exec (.getTime sel) t = .next (t.setResult (some (.time wd hr mi sec))) := by
  obtain ⟨ht, hlen, hbyte⟩ := putValue_done (by decide) h
  have h8 : t.byte sel 8 = wd ++ hr := hbyte 0 (by simp)
  have h9 : t.byte sel 9 = mi.setWidth 8 := hbyte 1 (by simp)
  have h10 : t.byte sel 10 = sec.setWidth 8 := hbyte 2 (by simp)
  have hsix (v : BitVec 6) : getBits (v.setWidth 8) 0 6 = v := by
    rw [getBits_zero, BitVec.setWidth_setWidth_of_le _ (by decide), BitVec.setWidth_eq]
  have hwd : getBits (wd ++ hr) 5 3 = wd := BitVec.extractLsb'_append_eq_left
  have hhr : getBits (wd ++ hr) 0 5 = hr := BitVec.extractLsb'_append_eq_right
  refine decoder_of_length ht hlen ?_
  rw [State.field, State.field, State.field, State.field, h8, h9, h10, hsix, hsix, hwd, hhr]

/-- The boolean is bit 0 of the first data bits, which do not move the length. -/
theorem getBool_after_setFirstDataByte {sel : Buf} {d : BitVec 6} {s t : State} (hn : s.payloadLength sel = 2)
    (h : exec (.setFirstDataByte sel d) s = .next t) :
    exec (.getBool sel) t = .next (t.setResult (some (.flag (d.setWidth 1)))) := by
  obtain ⟨ht, hdata⟩ := field_done (by decide) h
  obtain ⟨-, hu⟩ := command_done h
  have h5 : t.byte sel 5 = s.byte sel 5 := by rw [hu]; exact s.byte_setByte_ne sel _ (by decide)
  refine decoder_of_length ht ((State.payloadLength_congr h5).trans hn) (congrArg Result.flag ?_)
  rw [← hdata, State.field, State.field, getBits_zero, getBits_zero, BitVec.setWidth_setWidth_of_le _ (by decide)]

/-- Settles O19, type by type. -/
theorem datapointsReadBack : Obligations.DatapointsReadBack := by
  intro sel s t
  exact ⟨fun _ => get1ByteInt_after_set, fun _ => get4ByteFloat_after_set, fun _ => get14ByteText_after_set,
    fun _ _ _ _ => getTime_after_set, fun _ => getBool_after_setFirstDataByte⟩

/-! ## The 2-byte float stored (R165 to R168) -/

/-- Byte 8 of exponent `E` and the twelve mantissa bits `M`: sign, exponent, bits 10 to 8 (R165). -/
def float16Hi (E M : Nat) : Byte := BitVec.ofNat 8 (M / 2048 * 128 + E * 8 + M % 2048 / 256)

/-- Byte 9 of the twelve mantissa bits `M` (R165). -/
def float16Lo (M : Nat) : Byte := BitVec.ofNat 8 (M % 256)

section InRange
variable {f : BitVec 32} {E q M : Nat} (hf : b32Finite f = true) (hE : E ≤ 15)
  (hn : 100 * b32Magnitude f ≤ 2047 * 2 ^ (149 + E)) (hl : ∀ e, e < E → 2047 * 2 ^ (149 + e) < 100 * b32Magnitude f)
  (hq : q = (2 * (100 * b32Magnitude f) + 2 ^ (149 + E)) / (2 * 2 ^ (149 + E)))
  (hM : M = if f.getLsbD 31 = true ∧ q ≠ 0 then 4096 - q else q)

include hl hq hM in
/-- Zero needs no halving and has no sign (R180). -/
theorem encoding_of_zero (h0 : b32Magnitude f = 0) : E = 0 ∧ M = 0 := by
  have hE : E = 0 := by
    by_contra hne
    have := hl 0 (Nat.pos_of_ne_zero hne)
    omega
  have hq0 : q = 0 := by
    rw [hq, h0, hE]
    rfl
  exact ⟨hE, by simpa [hq0] using hM⟩

include hf hE hn hl hq hM in
/-- In range the encoder gives the two bytes, and the command stores them (R166, R167). -/
theorem putFloat16_of_inRange (s : State) (sel : Buf) :
    s.putFloat16 sel f = s.putValue sel 4 [float16Hi E M, float16Lo M] := by
  have hM' : M = if b32Sign f = 1#1 ∧ q ≠ 0 then 4096 - q else q :=
    hM.trans (if_congr (and_congr_left' (b32Sign_eq f).symm) rfl rfl)
  rw [State.putFloat16, float16Encode_eq hf hE hn hl hq, packFloat16_eq _ E q M (mantissa_le hn hq) hM']
  rfl

end InRange

/-- Settles O20: in range the command is an encoder of the two bytes. -/
theorem float16Encodes : Obligations.Float16Encodes := by
  intro sel f E s hs hf hE hn hl q M hq hM
  have hput := putFloat16_of_inRange hf hE hn hl hq hM s sel
  refine ⟨op_commandWord (by decide), mantissa_le hn hq,
    encoder (sel := sel) (n := 4) (l := [float16Hi E M, float16Lo M]) 0x03#8 hs ?_ rfl fun _ => rfl⟩
  rw [← hput]
  rfl

/-- The encoder draws for NaN, an infinity and a value that all the halvings leave too large (R168). -/
theorem float16Encode_eq_none {f : BitVec 32}
    (h : b32Finite f = false ∨ 2047 * 2 ^ (149 + 15) < 100 * b32Magnitude f) :
    float16Encode float16Ties float16Scale f = none := by
  refine if_pos (Bool.or_eq_true_iff.mpr (h.imp (fun hf => by rw [hf]; rfl) fun hn => decide_eq_true ?_))
  have hover : ∀ e, e ≤ 15 → 2047 * 2 ^ (149 + e) < 100 * b32Magnitude f := fun e he =>
    (Nat.mul_le_mul_left 2047 (Nat.pow_le_pow_right (by decide) (by omega))).trans_lt hn
  have hE : exponentOf (100 * b32Magnitude f) = 15 := halvings_over _ hover 15 0 (by decide)
  show 2047 * 2 ^ (149 + exponentOf (100 * b32Magnitude f)) < 100 * b32Magnitude f
  rw [hE]
  exact hn

/-- Settles O21: the drawn bytes are the free values at the counter, and the counter moves past them. -/
theorem float16Draws : Obligations.Float16Draws := by
  intro sel f s hs h
  have hput : s.putFloat16 sel f =
      (s.putValue sel 4 [Config.freeByte s.choices, Config.freeByte (s.choices + 1)]).setChoices (s.choices + 2) := by
    rw [State.putFloat16, float16Encode_eq_none h]
  refine ⟨(s.putFloat16 sel f).setResult (some .empty), Config.freeByte s.choices, Config.freeByte (s.choices + 1),
    whenIdle_of_idle hs, ?_, fun a => ?_⟩
  · rw [hput, State.putValue_frame]
    rfl
  · rw [hput]
    exact read_putValue_two s sel _ _ a

/-! ## The 2-byte float read (R169) -/

/-- Settles O22: mantissa and exponent as the numbers their bits are. -/
theorem float16Decodes : Obligations.Float16Decodes := by
  intro sel s hs
  refine ⟨op_commandWord (by decide), decoder .hundredths hs ?_⟩
  rw [float16Hundredths, float16Mantissa_eq, float16Exponent_eq]

/-! ## The 2-byte float read back (R180) -/

theorem toNat_float16Hi {E M : Nat} (hE : E ≤ 15) (hM : M < 4096) :
    (float16Hi E M).toNat = M / 2048 * 128 + E * 8 + M % 2048 / 256 := by
  rw [float16Hi, BitVec.toNat_ofNat]
  omega

theorem toNat_float16Lo (M : Nat) : (float16Lo M).toNat = M % 256 := by
  rw [float16Lo, BitVec.toNat_ofNat]
  omega

/-- The two bytes of a mantissa decode to it in two's complement. -/
theorem float16Hundredths_bytes {E M : Nat} (hE : E ≤ 15) (hM : M < 4096) :
    float16Hundredths (float16Hi E M) (float16Lo M) = (if M < 2048 then (M : Int) else (M : Int) - 4096) * 2 ^ E := by
  have hexp : (M / 2048 * 128 + E * 8 + M % 2048 / 256) / 8 % 16 = E := by omega
  rw [float16Hundredths, float16Exponent_eq, float16Mantissa_eq, toNat_float16Hi hE hM, toNat_float16Lo, hexp]
  congr 1
  split <;> omega

/-- The sign of a mantissa is the sign of the value, where the mantissa is not 0. -/
theorem signed_mantissa {neg : Prop} [Decidable neg] {q M : Nat} (hq : q ≤ 2047)
    (hM : M = if neg ∧ q ≠ 0 then 4096 - q else q) :
    M < 4096 ∧ (if M < 2048 then (M : Int) else (M : Int) - 4096) = if neg then -(q : Int) else q := by
  by_cases hneg : neg
  · simp only [hneg, true_and, if_true] at hM ⊢
    split at hM <;> split <;> omega
  · simp only [hneg, false_and, if_false] at hM ⊢
    split <;> omega

/-- Rounding to the nearest misses by half a unit at most. -/
theorem two_mul_abs_round_sub_le {n d q : Nat} (hd : 0 < d) (hq : q = (2 * n + d) / (2 * d)) :
    2 * |(q : Int) * d - n| ≤ d := by
  have hlo : q * (2 * d) ≤ 2 * n + d := hq ▸ Nat.div_mul_le_self _ _
  have hhi : 2 * n + d < (q + 1) * (2 * d) := by
    rw [hq]
    exact Nat.lt_mul_of_div_lt (Nat.lt_succ_self _) (by omega)
  have hlo' : (q : Int) * (2 * d) ≤ 2 * n + d := by exact_mod_cast hlo
  have hhi' : 2 * (n : Int) + d < (q + 1) * (2 * d) := by exact_mod_cast hhi
  have htwice : 2 * |(q : Int) * d - n| = |2 * ((q : Int) * d - n)| := by rw [abs_mul, abs_two]
  rw [htwice, abs_le]
  constructor <;> linarith

/-- A sign taken on both sides does not change a distance. -/
theorem abs_signed_sub {neg : Prop} [Decidable neg] (q d m : Int) :
    |(if neg then -q else q) * d - 100 * (if neg then -m else m)| = |q * d - 100 * m| := by
  split
  · rw [← abs_neg]
    congr 1
    ring
  · rfl

theorem get2ByteFloat_after_bytes {sel : Buf} {b8 b9 : Byte} {s t u : State} {V : Int}
    (h : whenIdle s (answer (s.putValue sel 4 [b8, b9]) .empty) = .next t)
    (hu : exec (.get2ByteFloat sel) t = .next u) (hV : u.result = some (.hundredths V)) :
    t.byte sel 8 = b8 ∧ t.byte sel 9 = b9 ∧ V = float16Hundredths b8 b9 := by
  obtain ⟨-, hlen, hbyte⟩ := putValue_done (by decide) h
  have h8 : t.byte sel 8 = b8 := hbyte 0 (by simp)
  have h9 : t.byte sel 9 = b9 := hbyte 1 (by simp)
  obtain ⟨-, rfl⟩ := command_done hu
  rw [State.setResult_result, if_pos hlen, h8, h9] at hV
  cases hV
  exact ⟨h8, h9, rfl⟩

/-- Settles O23: the decoded mantissa is the rounded one with its sign, and rounding misses by half a unit at most. -/
theorem float16RoundTrip : Obligations.Float16RoundTrip := by
  intro sel f E s t u V X hf hE hn hl hX ht hu hV
  obtain ⟨q, hq⟩ : ∃ q, q = (2 * (100 * b32Magnitude f) + 2 ^ (149 + E)) / (2 * 2 ^ (149 + E)) := ⟨_, rfl⟩
  obtain ⟨M, hM⟩ : ∃ M, M = if f.getLsbD 31 = true ∧ q ≠ 0 then 4096 - q else q := ⟨_, rfl⟩
  have ht' : whenIdle s (answer (s.putValue sel 4 [float16Hi E M, float16Lo M]) .empty) = .next t := by
    rw [← putFloat16_of_inRange hf hE hn hl hq hM]
    exact ht
  obtain ⟨h8, h9, rfl⟩ := get2ByteFloat_after_bytes ht' hu hV
  obtain ⟨hM4096, hsign⟩ := signed_mantissa (mantissa_le hn hq) hM
  refine ⟨?_, fun h0 => ?_⟩
  · have hround := two_mul_abs_round_sub_le (Nat.two_pow_pos (149 + E)) hq
    rw [float16Hundredths_bytes hE hM4096, hsign, hX, mul_assoc, ← pow_add, Nat.add_comm E, abs_signed_sub]
    push_cast at hround
    exact hround
  · obtain ⟨rfl, rfl⟩ := encoding_of_zero hl hq hM h0
    exact ⟨h8, h9⟩

end Sys2Proof.Machine
end

section
/-! PROOFS. The framer (44_framer.md), and the classification POLL_EVENT begins with (45_session_rx.md R232): what a
bounded read, a transmission and the wait for a confirmation come to, step by step.

A transmission is described by how many of its `2T` bytes are written and what the channel has delivered since it began
(`State.midSend`); each kind of turn moves one of the two, so a list of turns is an induction over it. -/

namespace Sys2Proof.Machine

/-! ## Setting a field to what it holds -/

theorem State.setSeq_of_eq {s : State} {q : Seq} (h : s.seq = q) : s.setSeq q = s := by
  subst h
  rfl

theorem State.setEnv_of_eq {s : State} {e : List Turn} (h : s.env = e) : s.setEnv e = s := by
  subst h
  rfl

/-- A command that ends leaves SEQ where it found it. -/
theorem finish_of_idle {s : State} (hs : s.seq = .idle) (r : Result) : s.finish r = s.setResult (some r) :=
  State.setSeq_of_eq (s := s.setResult (some r)) hs

/-- `s` with a command handed over to the sequencer at position `q`, as `begin` leaves it. -/
def State.begun (s : State) (q : Seq) : State := (s.setResult none).setSeq q

/-! ## The byte classifier (R190 to R193) -/

theorem ofBool_isFrameStartByte (b : Byte) :
    BitVec.ofBool (isFrameStartByte b) = if b ||| 0x2C#8 = 0xBC#8 then 1#1 else 0#1 := by
  rw [← if_congr (isFrameStartByte_iff b) rfl rfl]
  cases isFrameStartByte b <;> rfl

theorem classOf_eq (b : Byte) :
    classOf b = if b = 0x03#8 then 2#2 else if b ||| 0x2C#8 = 0xBC#8 then 1#2 else 0#2 := by
  rw [← if_congr (isFrameStartByte_iff b) rfl rfl]
  rfl

/-- The three free bits give the eight frame starts. -/
theorem frameStart_iff_mem : ∀ b : Byte, b ||| 0x2C#8 = 0xBC#8 ↔
    b ∈ [0x90#8, 0x94#8, 0x98#8, 0x9C#8, 0xB0#8, 0xB4#8, 0xB8#8, 0xBC#8] := by decide

theorem resetIndication_not_frameStart {b : Byte} : ¬ (b = 0x03#8 ∧ b ||| 0x2C#8 = 0xBC#8) := by
  rintro ⟨rfl, h⟩
  exact absurd h (by decide)

/-- Settles O24: both commands answer the classifier's predicate, and the list is its extension. -/
theorem byteClassifier : Obligations.ByteClassifier := by
  intro b s hs
  exact ⟨op_commandWord (by decide), op_commandWord (by decide),
    getter hs (congrArg Result.flag (ofBool_isFrameStartByte b)), frameStart_iff_mem b,
    getter hs (congrArg Result.code2 (classOf_eq b)), resetIndication_not_frameStart⟩

/-! ## The bounded read (R197) -/

/-- Every position that reads does so in one step of the block. -/
theorem blockStep_of_reads {s : State} (hr : s.seq.reads = true) : s.blockStep = s.boundedRead := by
  match hs : s.seq with
  | .rd | .conf c | .pRx i => simp only [State.blockStep, hs]
  | .idle | .tx sel i half c | .ackTx b | .dly a | .pCls k | .pAck i | .pNcd i =>
    rw [hs] at hr
    cases hr

/-- A queued byte is what the read returns. -/
theorem blockStep_queued {s : State} {b : Byte} {q : List Byte} (hr : s.seq.reads = true) (hq : s.rxq = b :: q) :
    s.blockStep = (s.setRxq q).onRead (some b) := by
  rw [blockStep_of_reads hr, State.boundedRead, hq]

/-- On an empty queue the channel's free answer is what the read returns. -/
theorem blockStep_empty {s : State} (hr : s.seq.reads = true) (hq : s.rxq = []) :
    s.blockStep = (s.setChoices (s.choices + 1)).onRead (Config.channelAnswer s.choices) := by
  rw [blockStep_of_reads hr, State.boundedRead, hq]

/-- A timeout ends a read on an empty queue. -/
theorem chanTimeout_waiting {s : State} (hq : s.rxq = []) (hr : s.seq.reads = true) : s.chanTimeout = s.onRead none :=
  if_pos (Bool.and_eq_true_iff.mpr ⟨hr, List.isEmpty_iff.mpr hq⟩)

/-- With no read waiting on an empty queue nothing notices a timeout. -/
theorem chanTimeout_unnoticed {s : State} (h : s.rxq ≠ [] ∨ s.seq.reads = false) : s.chanTimeout = s := by
  refine if_neg ?_
  obtain hq | hr := h
  · simp [State.waiting, hq]
  · simp [State.waiting, hr]

/-! ## READ_BYTE_TIMEOUT (R198) -/

/-- What READ_BYTE_TIMEOUT makes of the end of its read. -/
def readResult : Option Byte → Result
  | some b => .readByte 1#1 b
  | none => .readByte 0#1 0x00#8

theorem onRead_rd {s : State} (hs : s.seq = .rd) (o : Option Byte) : s.onRead o = s.finish (readResult o) := by
  cases o <;> simp only [State.onRead, hs, readResult]

theorem readResult_cases (o : Option Byte) :
    (∃ b, readResult o = .readByte 1#1 b) ∨ readResult o = .readByte 0#1 0x00#8 := by
  cases o with
  | some b => exact .inl ⟨b, rfl⟩
  | none => exact .inr rfl

/-- Settles O25, by queue and turn. -/
theorem readByteTimeout : Obligations.ReadByteTimeout := by
  intro s hs
  refine ⟨op_commandWord (by decide), whenIdle_of_idle hs, fun t hx => ?_⟩
  have ht : t = s.begun .rd := begin_next.mp (whenIdle_next.mp hx).2
  have hseq : t.seq = .rd := congrArg State.seq ht
  have hr : t.seq.reads = true := congrArg Seq.reads hseq
  have hrxq : t.rxq = s.rxq := by rw [ht]; rfl
  have henv : t.env = s.env := by rw [ht]; rfl
  have hchoices : t.choices = s.choices := by rw [ht]; rfl
  refine ⟨fun b q hq he => ?_, fun b q e hq he => ?_, fun b q x e hq he => ?_, fun b q e hq he => ?_,
    fun b e hq he => ?_, fun e hq he => ?_, fun hq he => ?_⟩
  · rw [step_nil (henv.trans he), blockStep_queued hr (hrxq.trans hq), onRead_rd (s := t.setRxq q) hseq, ht]
    exact congrArg _ (finish_of_idle (s := s.setRxq q) hs _)
  · rw [step_block (henv.trans he), blockStep_queued (s := t.setEnv e) hr (hrxq.trans hq),
      onRead_rd (s := (t.setEnv e).setRxq q) hseq, ht]
    exact congrArg _ (finish_of_idle (s := (s.setEnv e).setRxq q) hs _)
  · have hne : t.rxq ≠ [] := by simp [hrxq, hq]
    rw [step_deliver (henv.trans he), chanDeliver_queued (s := t.setEnv e) (.inl hne), ← hq, ← hrxq]
    rfl
  · have hne : t.rxq ≠ [] := by simp [hrxq, hq]
    rw [step_timeout (henv.trans he), chanTimeout_unnoticed (s := t.setEnv e) (.inl hne)]
  · rw [step_deliver (henv.trans he), chanDeliver_waiting (s := t.setEnv e) (hrxq.trans hq) hr,
      onRead_rd (s := t.setEnv e) hseq, ht]
    exact congrArg _ (finish_of_idle (s := s.setEnv e) hs _)
  · rw [step_timeout (henv.trans he), chanTimeout_waiting (s := t.setEnv e) (hrxq.trans hq) hr,
      onRead_rd (s := t.setEnv e) hseq, ht]
    exact congrArg _ (finish_of_idle (s := s.setEnv e) hs _)
  · refine ⟨readResult (Config.channelAnswer s.choices), ?_, readResult_cases _⟩
    rw [step_nil (henv.trans he), blockStep_empty hr (hrxq.trans hq), hchoices,
      onRead_rd (s := t.setChoices (s.choices + 1)) hseq, ht]
    exact congrArg _ (finish_of_idle (s := s.setChoices (s.choices + 1)) hs _)

/-! ## The acknowledgements (R206, R207) -/

/-- The byte is written, the delay passes. -/
theorem runs_ackTx {t : State} {b : Byte} (ht : t.seq = .ackTx b) (he : t.env = []) :
    runs 2 t = .next ((t.setTxlog (t.txlog ++ [b])).finish .empty) := by
  rw [runs_alone he, Function.iterate_succ_apply, blockStep_ackTx ht, Function.iterate_one, dly_step rfl]
  rfl

theorem runs_acknowledgement {s : State} (hs : s.seq = .idle) (he : s.env = []) (b : Byte) :
    runs 2 ((s.setResult none).setSeq (.ackTx b)) =
      .next ((s.setTxlog (s.txlog ++ [b])).setResult (some .empty)) :=
  (runs_ackTx (t := s.begun (.ackTx b)) rfl he).trans
    (congrArg _ (finish_of_idle (s := s.setTxlog (s.txlog ++ [b])) hs .empty))

/-- Settles O26: the two commands differ in the byte alone. -/
theorem acknowledgementsSent : Obligations.AcknowledgementsSent := by
  intro s hs he
  exact ⟨op_commandWord (by decide), op_commandWord (by decide),
    ⟨_, whenIdle_of_idle hs, rfl, runs_acknowledgement hs he 0x11#8⟩,
    ⟨_, whenIdle_of_idle hs, rfl, runs_acknowledgement hs he 0x10#8⟩⟩

/-! ## Transmission (R202) -/

/-- `s` with the first `j` bytes of a transmission written and `rx` delivered meanwhile. -/
def State.midSend (s : State) (sel : Buf) (c : Caller) (j : Nat) (rx : List Byte) : State :=
  ((s.setTxlog (s.txlog ++ (List.range j).map (s.wireByte sel))).setRxq (s.rxq ++ rx)).setSeq (s.sendPosition sel c j)

section
variable {s : State} {sel : Buf} {c : Caller} {j : Nat} {rx : List Byte} {e : List Turn}

theorem midSend_start (h : s.seq = .tx sel 0 .tag c) : s.midSend sel c 0 [] = s := by
  have hpos : s.sendPosition sel c 0 = s.seq := by
    have := (s.totalLength_bounds sel).1
    rw [h, State.sendPosition, if_pos (by omega)]
    rfl
  rw [State.midSend, List.range_zero, List.map_nil, List.append_nil, List.append_nil, hpos]
  rfl

theorem midSend_end (s : State) (sel : Buf) (c : Caller) (rx : List Byte) :
    s.midSend sel c (2 * s.totalLength sel) rx =
      ((s.setTxlog (s.txlog ++ s.tagged sel)).setRxq (s.rxq ++ rx)).setSeq (.conf c) := by
  rw [State.midSend, s.tagged_eq, State.sendPosition, if_neg (Nat.lt_irrefl _)]

/-- No read is in progress before the last byte is written. -/
theorem sendPosition_not_reads (hj : j < 2 * s.totalLength sel) : (s.sendPosition sel c j).reads = false := by
  rw [State.sendPosition, if_pos hj]
  rfl

theorem blockStep_midSend (hj : j < 2 * s.totalLength sel) :
    ((s.midSend sel c j rx).setEnv e).blockStep = (s.midSend sel c (j + 1) rx).setEnv e := by
  rw [State.blockStep_setEnv, State.send_step (s := s.midSend sel c j rx) hj rfl, State.midSend, State.midSend,
    List.range_succ, List.map_append, ← List.append_assoc]
  rfl

theorem chanDeliver_midSend (hj : j < 2 * s.totalLength sel) (b : Byte) :
    ((s.midSend sel c j rx).setEnv e).chanDeliver b = (s.midSend sel c j (rx ++ [b])).setEnv e := by
  rw [chanDeliver_queued (.inr (sendPosition_not_reads hj)), State.midSend, State.midSend, ← List.append_assoc]
  rfl

theorem chanTimeout_midSend (hj : j < 2 * s.totalLength sel) :
    ((s.midSend sel c j rx).setEnv e).chanTimeout = (s.midSend sel c j rx).setEnv e :=
  chanTimeout_unnoticed (.inr (sendPosition_not_reads hj))

end

/-- Over turns that do not finish a transmission, those of the block write its bytes and deliveries extend RXQ. -/
theorem runs_midSend {s : State} {sel : Buf} {c : Caller} {e : List Turn} (turns : List Turn) :
    ∀ (j : Nat) (rx : List Byte), turns.all Turn.quiet = true → j + turns.count .block < 2 * s.totalLength sel →
      runs turns.length ((s.midSend sel c j rx).setEnv (turns ++ e)) =
        .next ((s.midSend sel c (j + turns.count .block) (rx ++ delivered turns)).setEnv e) := by
  induction turns with
  | nil =>
    intro j rx _ _
    rw [delivered, List.append_nil]
    rfl
  | cons turn turns ih =>
    intro j rx hquiet hcount
    obtain ⟨hturn, hrest⟩ := Bool.and_eq_true_iff.mp (List.all_cons ▸ hquiet)
    cases turn with
    | issue w => cases hturn
    | block =>
      rw [List.count_cons_self] at hcount
      have hstep := step_block (s := (s.midSend sel c j rx).setEnv (.block :: turns ++ e)) (r := turns ++ e) rfl
      rw [State.setEnv_setEnv, blockStep_midSend (by omega)] at hstep
      rw [List.length_cons, runs_succ hstep, ih (j + 1) rx hrest (by omega), List.count_cons_self, delivered,
        Nat.add_right_comm, Nat.add_assoc]
    | deliver b =>
      have hne : Turn.deliver b ≠ .block := nofun
      rw [List.count_cons_of_ne hne] at hcount
      have hstep := step_deliver (s := (s.midSend sel c j rx).setEnv (.deliver b :: turns ++ e)) (r := turns ++ e) rfl
      rw [State.setEnv_setEnv, chanDeliver_midSend (by omega)] at hstep
      rw [List.length_cons, runs_succ hstep, ih j (rx ++ [b]) hrest hcount, List.count_cons_of_ne hne, delivered,
        List.append_assoc, List.singleton_append]
    | timeout =>
      rw [List.count_cons_of_ne (by decide)] at hcount
      have hstep := step_timeout (s := (s.midSend sel c j rx).setEnv (.timeout :: turns ++ e)) (r := turns ++ e) rfl
      rw [State.setEnv_setEnv, chanTimeout_midSend (by omega)] at hstep
      rw [List.length_cons, runs_succ hstep, ih j rx hrest hcount, List.count_cons_of_ne (by decide), delivered]

/-- Settles O27: the turns before the last block's leave one byte to write, and that block writes it. -/
theorem transmissionWritesTaggedTelegram : Obligations.TransmissionWritesTaggedTelegram := by
  intro sel c s turns hs he hquiet hcount
  refine ⟨?_, s.length_tagged sel⟩
  have hrun := runs_midSend (s := s) (sel := sel) (c := c) (e := [.block]) turns 0 [] hquiet (by omega)
  rw [midSend_start hs, State.setEnv_of_eq he, Nat.zero_add, List.nil_append] at hrun
  have hlast := step_block (s := (s.midSend sel c (turns.count .block) (delivered turns)).setEnv [.block]) rfl
  rw [runs_add 1 hrun, runs_succ hlast, runs_zero, State.setEnv_setEnv, blockStep_midSend (by omega), hcount,
    midSend_end]
  rfl

/-! ## The wait for a confirmation (R203) -/

/-- SEQ after a byte is read at CONF. -/
def confNext (c : Caller) (b : Byte) : Seq :=
  if b = 0x8B#8 then .dly (.confirmed c 1#1) else if b = 0x0B#8 then .dly (.confirmed c 0#1) else .conf c

theorem onRead_conf_some {s : State} {c : Caller} (hs : s.seq = .conf c) (b : Byte) :
    s.onRead (some b) = s.setSeq (confNext c b) := by
  simp only [State.onRead, hs, confNext, apply_ite s.setSeq, State.setSeq_of_eq hs]
  rfl

theorem onRead_conf_none {s : State} {c : Caller} (hs : s.seq = .conf c) :
    s.onRead none = s.setSeq (.dly (.confirmed c 0#1)) := by
  simp only [State.onRead, hs]

/-- Settles O28, by queue and turn. -/
theorem confirmationWait : Obligations.ConfirmationWait := by
  intro c s hs
  have hr : s.seq.reads = true := by
    rw [hs]
    rfl
  refine ⟨fun b q he hq => ?_, fun b e he hq => ?_, fun e he hq => ?_, fun e he hq => ?_⟩
  · rw [step_nil he, blockStep_queued hr hq, onRead_conf_some (s := s.setRxq q) hs, confNext]
  · rw [step_deliver he, chanDeliver_waiting (s := s.setEnv e) hq hr, onRead_conf_some (s := s.setEnv e) hs, confNext]
  · rw [step_timeout he, chanTimeout_waiting (s := s.setEnv e) hq hr, onRead_conf_none (s := s.setEnv e) hs]
  · rw [step_timeout he, chanTimeout_unnoticed (s := s.setEnv e) (.inl hq)]

/-! ## SEND_FRAME (R200, R201, R204, R208) -/

/-- The block alone, from the first tag to the last byte discarded. -/
theorem send_discards_iterate {t : State} {sel : Buf} {c : Caller} {other q : List Byte}
    (ht : t.seq = .tx sel 0 .tag c) (hq : t.rxq = other ++ q) (ho : ∀ x ∈ other, isConfirmation x = false) :
    State.blockStep^[2 * t.totalLength sel + other.length] t =
      ((t.setTxlog (t.txlog ++ t.tagged sel)).setRxq q).setSeq (.conf c) := by
  rw [Nat.add_comm, Function.iterate_add_apply, State.send_iterate ht]
  exact conf_discards other _ q rfl hq ho

/-- The confirmation is consumed, the delay passes, and the result returns to the host. -/
theorem blockStep_confirmed {s : State} {b : Byte} {q : List Byte} (hs : s.seq = .conf .host) (hq : s.rxq = b :: q)
    (hb : isConfirmation b = true) :
    s.blockStep.blockStep = (s.setRxq q).finish (.flag (if b = 0x8B#8 then 1#1 else 0#1)) := by
  rw [conf_step hs hq hb, dly_step rfl]
  rfl

/-- A transmission whose confirmation stands in the queue. -/
theorem runs_send_confirmed {t : State} {sel : Buf} {other rest : List Byte} {b : Byte}
    (ht : t.seq = .tx sel 0 .tag .host) (he : t.env = []) (hq : t.rxq = other ++ b :: rest)
    (ho : ∀ x ∈ other, isConfirmation x = false) (hb : isConfirmation b = true) :
    runs (2 * t.totalLength sel + other.length + 2) t = .next
      (((t.setTxlog (t.txlog ++ t.tagged sel)).setRxq rest).finish (.flag (if b = 0x8B#8 then 1#1 else 0#1))) := by
  rw [runs_alone he, Function.iterate_succ_apply', Function.iterate_succ_apply', send_discards_iterate ht hq ho,
    blockStep_confirmed rfl rfl hb]
  rfl

/-- A transmission whose confirmation does not come before the timeout. -/
theorem runs_send_timedOut {t : State} {sel : Buf} {other : List Byte} (ht : t.seq = .tx sel 0 .tag .host)
    (he : t.env = List.replicate (2 * t.totalLength sel + other.length) .block ++ [.timeout, .block])
    (hq : t.rxq = other) (ho : ∀ x ∈ other, isConfirmation x = false) :
    runs (2 * t.totalLength sel + other.length + 2) t = .next
      ((((t.setEnv []).setTxlog (t.txlog ++ t.tagged sel)).setRxq []).finish (.flag 0#1)) := by
  have hsend := send_discards_iterate (q := []) ht (by rw [hq, List.append_nil]) ho
  rw [runs_add 2 (runs_blocks _ he), hsend, runs_succ (step_timeout rfl), chanTimeout_waiting rfl rfl,
    onRead_conf_none rfl, runs_succ (step_block rfl), dly_step rfl]
  rfl

/-- Settles O30: transmission, the bytes before the confirmation, the confirmation or the timeout, the delay. -/
theorem sendFrameEndToEnd : Obligations.SendFrameEndToEnd := by
  intro sel s other rest b hs ho
  refine ⟨op_commandWord (by decide), _, whenIdle_of_idle hs, rfl, fun he hq hb => ?_, fun he hq => ?_⟩
  · exact (runs_send_confirmed (t := s.begun (.tx sel 0 .tag .host)) rfl he hq ho hb).trans
      (congrArg _ (finish_of_idle (s := (s.setTxlog (s.txlog ++ s.tagged sel)).setRxq rest) hs _))
  · exact (runs_send_timedOut (t := s.begun (.tx sel 0 .tag .host)) rfl he hq ho).trans
      (congrArg _ (finish_of_idle (s := ((s.setEnv []).setTxlog (s.txlog ++ s.tagged sel)).setRxq []) hs _))

/-! ## The classification of POLL_EVENT (R194, 45_session_rx.md R232, R237) -/

theorem cls_empty {s : State} (hs : s.seq = .pCls .available) (hq : s.rxq = []) :
    s.blockStep = s.finish (.code3 0#3) := by
  simp only [State.blockStep, hs, State.classify, State.chanAvailable, hq, List.isEmpty_nil, Bool.not_true,
    Bool.false_eq_true, if_false]

/-- The classified byte is consumed and its event answered. -/
theorem cls_read {s : State} {b : Byte} {q : List Byte} {e : BitVec 3} (hs : s.seq = .pCls (.read e))
    (hq : s.rxq = b :: q) : s.blockStep = (s.setRxq q).finish (.code3 e) := by
  simp only [State.blockStep, hs, State.classify, State.chanRead, hq, List.tail_cons]

/-- A byte that is no frame start: looked for, peeked at, then consumed. -/
theorem runs_classify_other {t : State} {b : Byte} {q : List Byte} (ht : t.seq = .pCls .available) (he : t.env = [])
    (hq : t.rxq = b :: q) (hf : b ||| 0x2C#8 ≠ 0xBC#8) :
    runs 2 t = .next (t.setSeq (.pCls (.read (if b = 0x03#8 then 1#3 else 4#3)))) ∧
    runs 3 t = .next ((t.setRxq q).finish (.code3 (if b = 0x03#8 then 1#3 else 4#3))) := by
  have htwo : State.blockStep^[2] t = t.setSeq (.pCls (.read (if b = 0x03#8 then 1#3 else 4#3))) := by
    rw [Function.iterate_succ_apply, cls_available ht hq, Function.iterate_one,
      cls_peek_other (s := t.setSeq (.pCls .peek)) rfl hq hf]
    rfl
  refine ⟨by rw [runs_alone he, htwo], ?_⟩
  rw [runs_alone he, Function.iterate_succ_apply', htwo, cls_read (s := t.setSeq _) rfl hq]
  rfl

/-- A memory that holds the CLEAR telegram in IN and is as `s` has it elsewhere, in the numbers of R100. -/
theorem read_cleared_incoming {s : State} {m : Memory} (hin : ∀ i ≤ 22, (s.setMem m).byte .incoming i = clearByte i)
    (hrest : ∀ a, 22 < a → m.read a = s.mem.read a) (a : Nat) :
    m.read a = if a = addr .incoming 0 then 0xBC#8 else if a = addr .incoming 5 then 0xE1#8
      else if addr .incoming 0 ≤ a ∧ a ≤ addr .incoming 22 then 0x00#8 else s.mem.read a := by
  by_cases ha : a ≤ 22
  · have hclear : m.read a = clearByte a := hin a ha
    rw [hclear, clearByte, if_pos (⟨Nat.zero_le a, ha⟩ : addr .incoming 0 ≤ a ∧ a ≤ addr .incoming 22)]
    rfl
  · have hzero : a ≠ addr .incoming 0 := fun h => ha (h ▸ Nat.zero_le 22)
    have hfive : a ≠ addr .incoming 5 := fun h => ha (h ▸ (by decide : 5 ≤ 22))
    rw [hrest a (Nat.lt_of_not_le ha), if_neg hzero, if_neg hfive, if_neg fun h => ha h.2]

/-- Settles O37, by the first byte of the queue. -/
theorem pollEventClassifies : Obligations.PollEventClassifies := by
  intro s hs he
  refine ⟨op_commandWord (by decide), (s.setResult none).setSeq (.pCls .available), whenIdle_of_idle hs, rfl,
    fun hq => ?_, fun hq => ?_, fun q hq => ?_, fun b q hq hb hf => ?_, fun b q hq hf => ?_, fun k x e => ?_⟩
  · have hstep := step_nil (s := s.begun (.pCls .available)) he
    rw [cls_empty (s := s.begun (.pCls .available)) rfl hq] at hstep
    exact hstep.trans (congrArg _ (finish_of_idle hs _))
  · obtain ⟨b, q, hq⟩ := List.exists_cons_of_ne_nil hq
    have hstep := step_nil (s := s.begun (.pCls .available)) he
    rw [cls_available (s := s.begun (.pCls .available)) rfl hq] at hstep
    exact hstep
  · obtain ⟨h2, h3⟩ := runs_classify_other (t := s.begun (.pCls .available)) rfl he hq (by decide)
    exact ⟨h2, h3.trans (congrArg _ (finish_of_idle (s := s.setRxq q) hs _))⟩
  · obtain ⟨h2, h3⟩ := runs_classify_other (t := s.begun (.pCls .available)) rfl he hq hf
    rw [if_neg hb] at h2 h3
    exact ⟨h2, h3.trans (congrArg _ (finish_of_idle (s := s.setRxq q) hs _))⟩
  · obtain ⟨m, hm, hin, hrest⟩ := cls_start (s := s.begun (.pCls .available)) rfl hq hf
    refine ⟨_, (runs_alone (s := s.begun (.pCls .available)) he 2).trans (congrArg _ hm), rfl, ?_⟩
    exact read_cleared_incoming (s := s) hin hrest
  · rw [step_deliver rfl, chanDeliver_queued (.inr rfl)]
    rfl

end Sys2Proof.Machine
end

section
/-! PROOFS. The bus session (45_session_rx.md R222 to R231, R239, R242): the own address, the listen set, the broadcast
flag and the interest function; and R237's last sentence, that only the three session setters write these registers.

Each of these commands answers in one step, so a getter is `getter` and a test is `flag_answer`. The session registers
are followed through a step by the row it runs (`exec_session_cases`). -/

namespace Sys2Proof.Machine

/-! ## The own address (R222 to R224) -/

/-- An individual address by shifts. -/
theorem individualAddr_eq (area line : BitVec 4) (member : Byte) :
    individualAddr area line member =
      (area.setWidth 16 <<< 12) ||| (line.setWidth 16 <<< 8) ||| member.setWidth 16 := by
  apply BitVec.eq_of_getLsbD_eq
  intro i hi
  simp only [individualAddr, BitVec.getLsbD_append, BitVec.getLsbD_or, BitVec.getLsbD_shiftLeft,
    BitVec.getLsbD_setWidth]
  interval_cases i <;> simp

theorem individualAddr_area (area line : BitVec 4) (member : Byte) :
    (individualAddr area line member).extractLsb' 12 4 = area :=
  (BitVec.extractLsb'_append_eq_of_le (by decide)).trans BitVec.extractLsb'_append_eq_left

theorem individualAddr_line (area line : BitVec 4) (member : Byte) :
    (individualAddr area line member).extractLsb' 8 4 = line :=
  (BitVec.extractLsb'_append_eq_of_le (by decide)).trans BitVec.extractLsb'_append_eq_right

theorem individualAddr_member (area line : BitVec 4) (member : Byte) :
    (individualAddr area line member).extractLsb' 0 8 = member :=
  BitVec.extractLsb'_append_eq_right

/-- The fields GET_OWN_ADDRESS answers, by shifts. -/
theorem exec_getOwnAddress {s : State} (hs : s.seq = .idle) : exec .getOwnAddress s = .next (s.setResult (some
    (.individual ((s.ownAddr >>> 12).setWidth 4) ((s.ownAddr >>> 8).setWidth 4) (s.ownAddr.setWidth 8)))) := by
  refine getter hs ?_
  rw [BitVec.setWidth_ushiftRight_eq_extractLsb, BitVec.setWidth_ushiftRight_eq_extractLsb,
    ← BitVec.ushiftRight_zero (x := s.ownAddr), BitVec.setWidth_ushiftRight_eq_extractLsb, BitVec.ushiftRight_zero]

theorem exec_getOwnAddress_of_individualAddr {t : State} {area line : BitVec 4} {member : Byte} (ht : t.seq = .idle)
    (ha : t.ownAddr = individualAddr area line member) :
    exec .getOwnAddress t = .next (t.setResult (some (.individual area line member))) := by
  refine getter ht ?_
  rw [ha, individualAddr_area, individualAddr_line, individualAddr_member]

/-- Settles O31: the three fields of the address are those it was put together from. -/
theorem ownAddress : Obligations.OwnAddress := by
  intro area line member s hs
  refine ⟨op_commandWord (by decide), op_commandWord (by decide), exec_getOwnAddress hs,
    _, whenIdle_of_idle hs, ?_, exec_getOwnAddress_of_individualAddr hs rfl⟩
  rw [individualAddr_eq]

/-! ## The listen set (R225 to R227) -/

/-- A set with room takes the group after its last valid entry. -/
theorem addListen_of_lt {s : State} (h : s.listenCount.toNat < 48) (g : BitVec 16) :
    s.addListen g = .next (((s.setListen (s.listen.setIfInBounds s.listenCount.toNat g)).setListenCount
      (s.listenCount + 1)).setResult (some (.flag 1#1))) := if_pos h

theorem addListen_of_le {s : State} (h : 48 ≤ s.listenCount.toNat) (g : BitVec 16) :
    s.addListen g = .next (s.setResult (some (.flag 0#1))) := if_neg (Nat.not_lt.mpr h)

/-- Settles O32, by whether the set has room. -/
theorem addListenGroup : Obligations.AddListenGroup := by
  intro main middle sub s hs
  refine ⟨op_commandWord (by decide),
    fun h => ⟨_, (whenIdle_of_idle hs).trans (addListen_of_lt h _), rfl, ?_, fun k => ?_⟩,
    fun h => (whenIdle_of_idle hs).trans (addListen_of_le h _)⟩
  · have hsum : (s.listenCount + 1).toNat = (s.listenCount.toNat + 1) % 64 := BitVec.toNat_add _ _
    exact hsum.trans (Nat.mod_eq_of_lt (by omega))
  · refine (Vector.getElem_setIfInBounds k.isLt).trans ?_
    rw [groupAddr_eq]
    exact if_congr eq_comm rfl rfl

/-- IS_LISTENING_GROUP answers whether the group is a valid entry. -/
theorem exec_isListeningGroup {s : State} (hs : s.seq = .idle) (main : BitVec 5) (middle : BitVec 3) (sub : Byte) :
    (s.listens (groupAddr main middle sub) →
      exec (.isListeningGroup main middle sub) s = .next (s.setResult (some (.flag 1#1)))) ∧
    (¬ s.listens (groupAddr main middle sub) →
      exec (.isListeningGroup main middle sub) s = .next (s.setResult (some (.flag 0#1)))) :=
  flag_answer (listensTo_iff s _) (whenIdle_of_idle hs)

/-- Settles O33: the test for a group is `listensTo_iff`. -/
theorem listenSetQueries : Obligations.ListenSetQueries := by
  intro main middle sub s hs
  obtain ⟨hin, hout⟩ := exec_isListeningGroup hs main middle sub
  rw [groupAddr_eq] at hin hout
  exact ⟨op_commandWord (by decide), op_commandWord (by decide), hin, hout, getter hs rfl⟩

/-! ## The broadcast flag and the status registers (R228, R229, R239) -/

/-- Settles O34: one setter and two getters, each in one step. -/
theorem broadcastAndStatus : Obligations.BroadcastAndStatus := fun _ _ hs =>
  ⟨op_commandWord (by decide), op_commandWord (by decide), op_commandWord (by decide),
    whenIdle_of_idle hs, getter hs rfl, getter hs rfl⟩

/-! ## The interest function (R230, R231, R242) -/

/-- IS_OF_INTEREST answers 1 for a telegram the session wants and 0 for another. -/
theorem exec_isOfInterest {s : State} (hs : s.seq = .idle) (sel : Buf) :
    (s.wants (s.byte sel 3) (s.byte sel 4) (s.byte sel 5) →
      exec (.isOfInterest sel) s = .next (s.setResult (some (.flag 1#1)))) ∧
    (¬ s.wants (s.byte sel 3) (s.byte sel 4) (s.byte sel 5) →
      exec (.isOfInterest sel) s = .next (s.setResult (some (.flag 0#1)))) :=
  flag_answer (interested_iff s sel) (whenIdle_of_idle hs)

/-- Settles O35, by the interest function in the spec's words. -/
theorem isOfInterest : Obligations.IsOfInterest := fun sel _ hs =>
  ⟨op_commandWord (by decide), exec_isOfInterest hs sel⟩

/-- The target-type flag is the bit under the mask 0x80. -/
theorem targetType_iff_mask : ∀ x : Byte, x.getLsbD 7 = true ↔ x &&& 0x80#8 ≠ 0x00#8 := by decide

theorem wants_group {s : State} {b3 b4 b5 : Byte} (h : b5 &&& 0x80#8 ≠ 0x00#8) :
    s.wants b3 b4 b5 ↔ s.listens (b3 ++ b4) ∨ (b3 ++ b4 = 0x0000#16 ∧ s.listenBcast = 1#1) := by
  rw [State.wants, if_pos ((targetType_iff_mask b5).mpr h)]

theorem wants_individual {s : State} {b3 b4 b5 : Byte} (h : b5 &&& 0x80#8 = 0x00#8) :
    s.wants b3 b4 b5 ↔ b3 ++ b4 = s.ownAddr := by
  rw [State.wants, if_neg fun hbit => (targetType_iff_mask b5).mp hbit h]

/-- Settles O36, by the kind of target. -/
theorem interestLaws : Obligations.InterestLaws := by
  rintro sel s g hs rfl
  obtain ⟨hwanted, hunwanted⟩ := exec_isOfInterest hs sel
  refine ⟨fun hgroup hg => hwanted ((wants_group hgroup).mpr (.inl hg)),
    fun hindividual hg => hwanted ((wants_individual hindividual).mpr hg),
    fun hgroup hg hb => hwanted ((wants_group hgroup).mpr (.inr ⟨hg, hb⟩)),
    fun hgroup hg hb hl => hunwanted fun hw => ?_,
    fun hindividual hg => hunwanted (mt (wants_individual hindividual).mp hg)⟩
  obtain hlisten | ⟨-, hbroadcast⟩ := (wants_group hgroup).mp hw
  · exact hl (hg ▸ hlisten)
  · exact absurd (hb.symm.trans hbroadcast) (by decide)

/-! ## Who writes the session registers (R237, 10_state.md R25 to R27) -/

/-- The three commands that set a session register. -/
def SetsSession (i : Instr) : Prop :=
  (∃ a l m, i = .setOwnAddress a l m) ∨ (∃ m n l, i = .addListenGroup m n l) ∨ (∃ b, i = .setListenBroadcast b)

theorem session_of_answer {s t : State} {r : Result} (h : whenIdle s (answer s r) = .next t) : SameSession s t := by
  obtain ⟨-, rfl⟩ := command_done h
  exact SameSession.refl s

theorem session_of_begin {s t : State} {q : Seq} (h : whenIdle s (begin s q) = .next t) : SameSession s t := by
  obtain rfl := begin_next.mp (whenIdle_next.mp h).2
  exact SameSession.refl s

/-- A row sets a session register by name, or leaves all four. -/
theorem exec_session_cases {i : Instr} {s t : State} (h : exec i s = .next t) : SetsSession i ∨ SameSession s t := by
  match hb : i.buffer with
  | some b => exact .inr (buffer_session hb h)
  | none =>
    cases i
    case setOwnAddress area line member => exact .inl (.inl ⟨area, line, member, rfl⟩)
    case addListenGroup main middle sub => exact .inl (.inr (.inl ⟨main, middle, sub, rfl⟩))
    case setListenBroadcast b => exact .inl (.inr (.inr ⟨b, rfl⟩))
    case readByteTimeout | sendFrame | sendAck | sendNotAddressed | pollEvent => exact .inr (session_of_begin h)
    case rxFrameStart | rxResetIndication | rxPositiveConfirmation | rxNegativeConfirmation =>
      cases h
      exact .inr (chanDeliver_status s _).1
    case txTagContinue | txTagEnd | txAck | txNotAddressed =>
      cases h
      exact .inr (SameSession.refl s)
    case isFrameStart | classifyByte | getRxStatus | getOwnAddress | isListeningGroup | getListenCount
        | getListenBroadcast | isOfInterest =>
      exact .inr (session_of_answer h)
    -- What is left names a buffer, or is an application command.
    all_goals cases hb
    all_goals exact .inr (session_of_answer h)

/-- Settles O44, by the turn the step takes. -/
theorem sessionWrittenByItsCommands : Obligations.SessionWrittenByItsCommands := by
  intro s t h hne
  obtain ⟨-, rfl⟩ | ⟨r, -, rfl⟩ | ⟨b, r, -, rfl⟩ | ⟨r, -, rfl⟩ | ⟨w, r, he, hw⟩ := step_cases h
  · exact absurd (blockStep_status s).1 hne
  · exact absurd (blockStep_status (s.setEnv r)).1 hne
  · exact absurd (chanDeliver_status (s.setEnv r) b).1 hne
  · exact absurd (chanTimeout_status (s.setEnv r)).1 hne
  · obtain ⟨i, hd, hx⟩ | ⟨b, -, rfl⟩ | ⟨b, -, rfl⟩ | ⟨-, rfl⟩ := hw
    · exact ⟨w, r, i, he, hd, (exec_session_cases hx).resolve_right hne⟩
    · exact absurd (chanDeliver_status (s.setEnv r) b).1 hne
    · exact absurd (SameSession.refl s) hne
    · exact absurd (SameSession.refl s) hne

end Sys2Proof.Machine
end

section
/-! PROOFS. POLL_EVENT on a telegram (45_session_rx.md R232 to R237): the assembly, complete or cut off by a timeout,
the acknowledgement, the transport step, and whole runs with and without a confirmation.

The assembly is described by the bytes received so far (`State.received`): each read moves one byte from RXQ to IN, so a
telegram is an induction over its bytes, last one first. The runs are put together from one lemma per part. -/

namespace Sys2Proof.Machine

/-! ## The length of a telegram that is coming in (R233) -/

/-- How many bytes a telegram has when `p` of it has arrived: byte 5 is CLEAR's until it comes. -/
def lengthSoFar (p : List Byte) : Nat := (p.getD 5 0xE1#8 &&& 0x0F#8).toNat + 8

/-- The default does not matter for a position the list has. -/
theorem getD_default_congr {l : List Byte} {k : Nat} (h : k < l.length) (d e : Byte) : l.getD k d = l.getD k e := by
  rw [List.getD_eq_getElem l d h, List.getD_eq_getElem l e h]

theorem lengthSoFar_of_lt {p : List Byte} (h : 5 < p.length) : lengthSoFar p = wireLength p := by
  rw [lengthSoFar, wireLength, getD_default_congr h]

theorem lengthSoFar_of_le {p : List Byte} (h : p.length ≤ 5) : lengthSoFar p = 9 := by
  rw [lengthSoFar, List.getD_eq_default p _ h]
  rfl

theorem wireLength_bounds (p : List Byte) : 8 ≤ wireLength p ∧ wireLength p ≤ 23 := by
  have hlow : ∀ x : Byte, (x &&& 0x0F#8).toNat ≤ 15 := by decide
  have := hlow (p.getD 5 0x00#8)
  simp only [wireLength]
  omega

/-- A telegram that lacks bytes on the wire lacks bytes in IN. -/
theorem lt_lengthSoFar {p : List Byte} (h : p.length < wireLength p) : p.length < lengthSoFar p := by
  by_cases h5 : 5 < p.length
  · rwa [lengthSoFar_of_lt h5]
  · rw [lengthSoFar_of_le (Nat.not_lt.mp h5)]
    omega

/-- Before its last byte a telegram is not complete. -/
theorem lt_lengthSoFar_of_append {p : List Byte} {b : Byte} (h : (p ++ [b]).length ≤ lengthSoFar (p ++ [b])) :
    p.length < lengthSoFar p := by
  by_cases h5 : 5 < p.length
  · rw [lengthSoFar, List.getD_append _ _ _ _ h5, List.length_append] at h
    exact h
  · rw [lengthSoFar_of_le (Nat.not_lt.mp h5)]
    omega

/-! ## The bytes received so far (R233) -/

/-- `s` with the bytes `p` received into IN, `q` still queued, and SEQ at `x`. -/
def State.received (s : State) (p q : List Byte) (x : Seq) : State := ((s.fill .incoming 0 p).setRxq q).setSeq x

/-- The interest decision on what stands in IN when `p` has been received (R234). -/
def State.interestIn (s : State) (p : List Byte) : BitVec 1 :=
  BitVec.ofBool ((s.fill .incoming 0 p).interested .incoming)

/-- The decision reads the memory and the session registers. -/
theorem interested_congr {s t : State} {sel : Buf} (hmem : t.mem = s.mem) (hsession : SameSession s t) :
    t.interested sel = s.interested sel := by
  obtain ⟨howner, hlisten, hcount, hbcast⟩ := hsession
  have hbyte (k : Nat) : t.byte sel k = s.byte sel k := congrArg (Memory.read · _) hmem
  rw [Bool.eq_iff_iff, interested_iff, interested_iff, hbyte, hbyte, hbyte]
  exact wants_congr howner hlisten hcount hbcast _ _ _

@[simp] theorem interested_setEnv (s : State) (e : List Turn) (sel : Buf) :
    (s.setEnv e).interested sel = s.interested sel := interested_congr rfl ⟨rfl, rfl, rfl, rfl⟩

@[simp] theorem interested_setRxTimedOut (s : State) (v : BitVec 1) (sel : Buf) :
    (s.setRxTimedOut v).interested sel = s.interested sel := interested_congr rfl ⟨rfl, rfl, rfl, rfl⟩

@[simp] theorem interested_received (s : State) (p q : List Byte) (x : Seq) :
    (s.received p q x).interested .incoming = (s.fill .incoming 0 p).interested .incoming :=
  interested_congr rfl ⟨rfl, rfl, rfl, rfl⟩

theorem State.received_eq (s : State) (p q : List Byte) (x : Seq) :
    s.received p q x = ((s.setMem (s.fill .incoming 0 p).mem).setRxq q).setSeq x := by
  rw [State.received, ← s.fill_frame]

theorem State.fill_append (s : State) (sel : Buf) (i : Nat) (p : List Byte) (b : Byte) :
    s.fill sel i (p ++ [b]) = (s.fill sel i p).setByte sel (i + p.length) b := by
  induction p generalizing s i with
  | nil => rfl
  | cons x p ih =>
    rw [List.cons_append, State.fill, ih, State.fill, List.length_cons, Nat.add_right_comm, Nat.add_assoc]

/-- One byte more received is one byte more stored. -/
theorem State.received_append (s : State) (p q r : List Byte) (b : Byte) (x y : Seq) :
    s.received (p ++ [b]) q x = (((s.received p r y).setRxq q).setByte .incoming p.length b).setSeq x := by
  rw [State.received, State.fill_append, Nat.zero_add]
  rfl

theorem onRead_pRx_some {s : State} {i : Nat} (hs : s.seq = .pRx i) (b : Byte) :
    s.onRead (some b) = s.assemble i b := by
  simp only [State.onRead, hs]

theorem onRead_pRx_none {s : State} {i : Nat} (hs : s.seq = .pRx i) :
    s.onRead none = (s.setRxTimedOut 1#1).assembled := by
  simp only [State.onRead, hs]

section
variable {s : State} (hin : ∀ i ≤ 22, s.byte .incoming i = clearByte i)
include hin

/-- A byte not received is CLEAR's. -/
theorem byte_fill_incoming (p : List Byte) {k : Nat} (hk : k ≤ 22) :
    (s.fill .incoming 0 p).byte .incoming k = p.getD k (clearByte k) := by
  rw [State.byte, State.read_fill]
  by_cases h : k < p.length
  · have hpos : addr .incoming 0 ≤ addr .incoming k ∧ addr .incoming k < addr .incoming 0 + p.length := by
      simpa [addr] using h
    rw [if_pos hpos, getD_default_congr (e := 0x00#8) h]
    rfl
  · have hneg : ¬ (addr .incoming 0 ≤ addr .incoming k ∧ addr .incoming k < addr .incoming 0 + p.length) := by
      simpa [addr] using h
    rw [if_neg hneg, List.getD_eq_default p _ (Nat.not_lt.mp h)]
    exact hin k hk

theorem totalLength_received (p q : List Byte) (x : Seq) :
    (s.received p q x).totalLength .incoming = lengthSoFar p := by
  have h5 : (s.received p q x).byte .incoming 5 = p.getD 5 0xE1#8 := byte_fill_incoming hin p (by decide)
  rw [State.totalLength_eq, payloadLength_eq, h5, lengthSoFar]

theorem interestIn_iff (p : List Byte) :
    s.interestIn p = 1#1 ↔ s.wants (p.getD 3 0x00#8) (p.getD 4 0x00#8) (p.getD 5 0xE1#8) := by
  have h3 : (s.fill .incoming 0 p).byte .incoming 3 = p.getD 3 0x00#8 := byte_fill_incoming hin p (by decide)
  have h4 : (s.fill .incoming 0 p).byte .incoming 4 = p.getD 4 0x00#8 := byte_fill_incoming hin p (by decide)
  have h5 : (s.fill .incoming 0 p).byte .incoming 5 = p.getD 5 0xE1#8 := byte_fill_incoming hin p (by decide)
  rw [State.interestIn, ofBool_iff, interested_iff, h3, h4, h5, s.fill_frame]
  exact wants_congr rfl rfl rfl rfl _ _ _

/-- A byte that more follow. -/
theorem blockStep_received_more {p q : List Byte} {b : Byte} (h : (p ++ [b]).length < lengthSoFar (p ++ [b])) :
    (s.received p (b :: q) (.pRx p.length)).blockStep = s.received (p ++ [b]) q (.pRx (p ++ [b]).length) := by
  have happend x := s.received_append p q (b :: q) b x (.pRx p.length)
  rw [← totalLength_received hin _ q (.pRx p.length), happend, List.length_append] at h
  rw [blockStep_queued rfl rfl, onRead_pRx_some rfl, happend, List.length_append]
  exact if_pos h

/-- The last byte, and the interest decision with it. -/
theorem blockStep_received_last {p q : List Byte} {b : Byte} (h : lengthSoFar (p ++ [b]) ≤ (p ++ [b]).length) :
    (s.received p (b :: q) (.pRx p.length)).blockStep =
      s.received (p ++ [b]) q (.pAck (s.interestIn (p ++ [b]))) := by
  have happend x := s.received_append p q (b :: q) b x (.pRx p.length)
  have hdecision := congrArg BitVec.ofBool (interested_received s (p ++ [b]) q (.pRx p.length))
  rw [← totalLength_received hin _ q (.pRx p.length), happend, List.length_append] at h
  rw [blockStep_queued rfl rfl, onRead_pRx_some rfl, State.interestIn, ← hdecision, happend, happend]
  exact if_neg (Nat.not_lt.mpr h)

/-- The assembly of a telegram that is not complete yet: one read per byte. -/
theorem iterate_received_incomplete (p : List Byte) (q : List Byte) (h : p.length < lengthSoFar p) :
    State.blockStep^[p.length] (s.received [] (p ++ q) (.pRx 0)) = s.received p q (.pRx p.length) := by
  induction p using List.reverseRecOn generalizing q with
  | nil => rfl
  | append_singleton p b ih =>
    have hp : p.length < lengthSoFar p := lt_lengthSoFar_of_append h.le
    rw [List.length_append, List.length_singleton, Function.iterate_succ_apply', List.append_assoc,
      List.singleton_append, ih _ hp, blockStep_received_more hin h, List.length_append, List.length_singleton]

/-- The assembly of a whole telegram. -/
theorem iterate_received_complete (p : List Byte) (q : List Byte) (h : p.length = wireLength p) :
    State.blockStep^[p.length] (s.received [] (p ++ q) (.pRx 0)) = s.received p q (.pAck (s.interestIn p)) := by
  have hlength : p.length = lengthSoFar p := by
    have := (wireLength_bounds p).1
    rw [h, lengthSoFar_of_lt (by omega)]
  obtain rfl | ⟨r, b, rfl⟩ := p.eq_nil_or_concat'
  · cases hlength
  · have hr : r.length < lengthSoFar r := lt_lengthSoFar_of_append hlength.le
    rw [List.length_append, List.length_singleton, Function.iterate_succ_apply', List.append_assoc,
      List.singleton_append, iterate_received_incomplete hin r _ hr, blockStep_received_last hin hlength.ge]

end

/-! ## From acceptance to the acknowledgement (R232 to R234) -/

theorem length_pos_of_frameStart {p : List Byte} (h : p.getD 0 0x00#8 ||| 0x2C#8 = 0xBC#8) : 0 < p.length := by
  cases p with
  | nil => exact absurd h (by decide)
  | cons b r => exact Nat.succ_pos _

/-- `c` is `t` as the assembly begins: IN holds the CLEAR telegram, RX_TIMED_OUT is 0 (R233). -/
structure AssemblyStart (t c : State) : Prop where
  frame : c = (t.setMem c.mem).setRxTimedOut 0#1
  incoming : ∀ i ≤ 22, c.byte .incoming i = clearByte i
  rest : ∀ a, 22 < a → c.mem.read a = t.mem.read a

/-- A frame start clears IN, and the assembly begins with nothing received. -/
theorem poll_begins {t : State} {p q : List Byte} (ht : t.seq = .pCls .available) (hq : t.rxq = p ++ q)
    (hp : p.getD 0 0x00#8 ||| 0x2C#8 = 0xBC#8) :
    ∃ c, AssemblyStart t c ∧ State.blockStep^[2] t = c.received [] (p ++ q) (.pRx 0) := by
  cases p with
  | nil => exact absurd hp (by decide)
  | cons b r =>
    obtain ⟨m, hm, hin, hrest⟩ := cls_start ht hq hp
    refine ⟨(t.setMem m).setRxTimedOut 0#1, ⟨rfl, hin, hrest⟩, hm.trans ?_⟩
    rw [← hq]
    rfl

section
variable {t c : State} (h : AssemblyStart t c)
include h

theorem AssemblyStart.received_eq (p q : List Byte) (x : Seq) : c.received p q x =
    (((t.setMem (c.fill .incoming 0 p).mem).setRxTimedOut 0#1).setRxq q).setSeq x := by
  have hmem (m : Memory) : c.setMem m = (t.setMem m).setRxTimedOut 0#1 := by
    rw [h.frame]
    rfl
  rw [State.received_eq, hmem]

theorem AssemblyStart.interestIn_iff (p : List Byte) :
    c.interestIn p = 1#1 ↔ t.wants (p.getD 3 0x00#8) (p.getD 4 0x00#8) (p.getD 5 0xE1#8) := by
  rw [Machine.interestIn_iff h.incoming, h.frame]
  exact wants_congr rfl rfl rfl rfl _ _ _

/-- What every address reads once the bytes `p` have come in. -/
theorem AssemblyStart.read_fill {p : List Byte} (hp : 0 < p.length) (hlen : p.length ≤ 23) (a : Nat) :
    (c.fill .incoming 0 p).mem.read a = if addr .incoming 0 ≤ a ∧ a ≤ addr .incoming 22 then
      p.getD (a - addr .incoming 0) (if a = addr .incoming 5 then 0xE1#8 else 0x00#8) else t.mem.read a := by
  by_cases ha : a ≤ 22
  · rw [if_pos (⟨Nat.zero_le a, ha⟩ : addr .incoming 0 ≤ a ∧ a ≤ addr .incoming 22)]
    refine (byte_fill_incoming h.incoming p ha).trans ?_
    obtain rfl | h0 := Nat.eq_zero_or_pos a
    · exact getD_default_congr hp _ _
    · rw [clearByte, if_neg h0.ne']
      rfl
  · have hfill : ¬ (addr .incoming 0 ≤ a ∧ a < addr .incoming 0 + p.length) := by
      simp only [addr]
      omega
    rw [State.read_fill, if_neg hfill, if_neg fun hr => ha hr.2, h.rest a (Nat.lt_of_not_le ha)]

end

/-- A telegram that stands whole in the queue, up to the interest decision. -/
theorem poll_assembles {t : State} {p q : List Byte} (ht : t.seq = .pCls .available) (hq : t.rxq = p ++ q)
    (hlen : p.length = wireLength p) (hp : p.getD 0 0x00#8 ||| 0x2C#8 = 0xBC#8) :
    ∃ (m : Memory) (i : BitVec 1),
      State.blockStep^[2 + p.length] t = (((t.setMem m).setRxTimedOut 0#1).setRxq q).setSeq (.pAck i) ∧
      (i = 1#1 ↔ t.wants (p.getD 3 0x00#8) (p.getD 4 0x00#8) (p.getD 5 0x00#8)) ∧
      ∀ a, m.read a = if addr .incoming 0 ≤ a ∧ a ≤ addr .incoming 22 then p.getD (a - addr .incoming 0) 0x00#8
        else t.mem.read a := by
  obtain ⟨c, hc, hbegins⟩ := poll_begins ht hq hp
  obtain ⟨hmin, hmax⟩ := wireLength_bounds p
  have h5 : 5 < p.length := by omega
  refine ⟨(c.fill .incoming 0 p).mem, c.interestIn p, ?_, ?_, fun a => ?_⟩
  · rw [Nat.add_comm, Function.iterate_add_apply, hbegins, iterate_received_complete hc.incoming p q hlen,
      hc.received_eq]
  · rw [hc.interestIn_iff, getD_default_congr h5 0xE1#8 0x00#8]
  · rw [hc.read_fill (length_pos_of_frameStart hp) (hlen.trans_le hmax)]
    refine ite_congr rfl (fun _ => ?_) fun _ => rfl
    split
    next ha =>
      rw [ha]
      exact getD_default_congr h5 _ _
    next => rfl

/-- Settles O38: acceptance, then `poll_assembles`. -/
theorem pollEventAssembles : Obligations.PollEventAssembles := by
  intro s p rest hs he hq hlen hp
  obtain ⟨m, i, hrun, hi, hread⟩ := poll_assembles (t := s.begun (.pCls .available)) rfl hq hlen hp
  exact ⟨_, _, i, whenIdle_of_idle hs, (runs_alone (s := s.begun (.pCls .available)) he _).trans (congrArg _ hrun),
    rfl, hi.trans (wants_congr rfl rfl rfl rfl _ _ _), hread⟩

/-- A telegram of which only `p` stands in the queue: the assembly waits for its next byte. -/
theorem iterate_poll_incomplete {t c : State} {p : List Byte} (hc : AssemblyStart t c)
    (hbegins : State.blockStep^[2] t = c.received [] (p ++ []) (.pRx 0)) (hlen : p.length < wireLength p) :
    State.blockStep^[2 + p.length] t = c.received p [] (.pRx p.length) := by
  rw [Nat.add_comm, Function.iterate_add_apply, hbegins,
    iterate_received_incomplete hc.incoming p [] (lt_lengthSoFar hlen)]

/-- The timeout ends the assembly. -/
theorem chanTimeout_received (c : State) (p : List Byte) (e : List Turn) (i : Nat) :
    ((c.received p [] (.pRx i)).setEnv e).chanTimeout =
      ((c.received p [] (.pAck (c.interestIn p))).setRxTimedOut 1#1).setEnv e := by
  rw [chanTimeout_waiting rfl rfl, onRead_pRx_none rfl, State.assembled, interested_setRxTimedOut, interested_setEnv,
    interested_received]
  rfl

/-- Settles O39: acceptance, the assembly of what has come, the timeout. -/
theorem pollEventTimesOut : Obligations.PollEventTimesOut := by
  intro s p hs hq he hlen hp
  obtain ⟨c, hc, hbegins⟩ :=
    poll_begins (t := s.begun (.pCls .available)) (q := []) rfl (hq.trans (List.append_nil p).symm) hp
  have hblocks := runs_blocks (s := s.begun (.pCls .available)) _ he
  rw [iterate_poll_incomplete hc hbegins hlen] at hblocks
  have htimeout := step_timeout (s := (c.received p [] (.pRx p.length)).setEnv [.timeout]) rfl
  rw [State.setEnv_setEnv, chanTimeout_received] at htimeout
  refine ⟨s.begun (.pCls .available),
    (((((s.setMem (c.fill .incoming 0 p).mem).setRxTimedOut 1#1).setResult none).setRxq []).setEnv []).setSeq
      (.pAck (c.interestIn p)), c.interestIn p, whenIdle_of_idle hs, ?_, rfl,
    (hc.interestIn_iff p).trans (wants_congr rfl rfl rfl rfl _ _ _),
    hc.read_fill (length_pos_of_frameStart hp) (hlen.le.trans (wireLength_bounds p).2)⟩
  rw [Nat.add_right_comm 2 1, runs_add 1 hblocks, runs_succ htimeout, runs_zero, hc.received_eq]
  rfl

/-! ## The acknowledgement (R235) -/

/-- The byte is written, the delay passes. -/
theorem iterate_pAck {s : State} {i : BitVec 1} (hs : s.seq = .pAck i) : State.blockStep^[2] s =
    (s.setTxlog (s.txlog ++ [if i = 1#1 then 0x11#8 else 0x10#8])).setSeq (.pNcd i) := by
  rw [Function.iterate_succ_apply, ack_step hs, Function.iterate_one, dly_step rfl]
  rfl

/-- Settles O40: both steps look at the decision alone. -/
theorem pollEventAcknowledges : Obligations.PollEventAcknowledges := fun _ _ hs he =>
  (runs_alone he 2).trans (congrArg _ (iterate_pAck hs))

/-! ## The transport step (R236) -/

/-- A byte of a buffer is the memory's. -/
theorem State.byte_setSeq (s : State) (q : Seq) (sel : Buf) (k : Nat) : (s.setSeq q).byte sel k = s.byte sel k := rfl

/-- A byte of a buffer is the memory's. -/
theorem State.byte_setMem_mem (s v : State) (sel : Buf) (k : Nat) : (s.setMem v.mem).byte sel k = v.byte sel k := rfl

/-- The confirmation telegram (R236). -/
def State.confirmationBytes (s : State) : List Byte :=
  [0xBC#8, (s.ownAddr >>> 8).setWidth 8, s.ownAddr.setWidth 8, s.byte .incoming 1, s.byte .incoming 2, 0x60#8,
    0xC2#8 ||| (s.byte .incoming 6 &&& 0x3C#8),
    0xFF#8 ^^^ 0xBC#8 ^^^ (s.ownAddr >>> 8).setWidth 8 ^^^ s.ownAddr.setWidth 8 ^^^ s.byte .incoming 1 ^^^
      s.byte .incoming 2 ^^^ 0x60#8 ^^^ (0xC2#8 ||| (s.byte .incoming 6 &&& 0x3C#8))]

theorem byte_buildConfirmation (s : State) {k : Nat} (hk : k ≤ 22) :
    s.buildConfirmation.byte .reply k = s.confirmationBytes.getD k 0x00#8 := buildConfirmation_bytes s k hk

theorem byte_incoming_buildConfirmation (s : State) {k : Nat} (hk : k ≤ 22) :
    s.buildConfirmation.byte .incoming k = s.byte .incoming k :=
  buildConfirmation_other s _ (addr_outside_other (by decide) hk)

theorem totalLength_buildConfirmation (s : State) : s.buildConfirmation.totalLength .reply = 8 := by
  have h5 : s.buildConfirmation.byte .reply 5 = 0x60#8 := byte_buildConfirmation s (by decide)
  rw [State.totalLength_eq, payloadLength_eq, h5]
  rfl

/-- For a numbered telegram of interest the confirmation is built in RPL and its transmission starts. -/
theorem blockStep_pNcd_confirms {s : State} (hs : s.seq = .pNcd 1#1) (hn : s.byte .incoming 6 &&& 0x40#8 ≠ 0x00#8) :
    ∃ u, s.blockStep = u ∧ u = (s.setMem u.mem).setSeq (.tx .reply 0 .tag .pollEvent) ∧
      (∀ k, k ≤ 22 → u.byte .reply k = s.confirmationBytes.getD k 0x00#8) ∧
      ∀ a, ¬ (addr .reply 0 ≤ a ∧ a ≤ addr .reply 22) → u.mem.read a = s.mem.read a :=
  ⟨_, ncd_some hs hn, congrArg (State.setSeq · _) (buildConfirmation_frame s),
    fun k hk => (State.byte_setSeq _ _ .reply k).trans (byte_buildConfirmation s hk),
    fun a ha => (congrArg (Memory.read · a) (State.setSeq_mem _ _)).trans (buildConfirmation_other s a ha)⟩

/-- Settles O41: the confirmation byte by byte, or the event; and the end of the delay. -/
theorem pollEventConfirms : Obligations.PollEventConfirms := by
  intro s i ok he
  rw [step_nil he]
  refine ⟨?_, fun hs h => congrArg _ (ncd_none hs h), fun hs => congrArg _ (dly_step hs)⟩
  rintro hs rfl hn
  obtain ⟨u, hstep, hframe, hbyte, hother⟩ := blockStep_pNcd_confirms hs hn
  have h0 := hbyte 0 (by decide); have h1 := hbyte 1 (by decide); have h2 := hbyte 2 (by decide)
  have h3 := hbyte 3 (by decide); have h4 := hbyte 4 (by decide); have h5 := hbyte 5 (by decide)
  have h6 := hbyte 6 (by decide); have h7 := hbyte 7 (by decide)
  simp only [State.confirmationBytes, List.getD_cons_zero, List.getD_cons_succ] at h0 h1 h2 h3 h4 h5 h6 h7
  refine ⟨u, congrArg _ hstep, hframe, h0, h1, h2, h3, h4, h5, h6, ?_,
    fun k h8 hk => (hbyte k hk).trans (List.getD_eq_default _ _ h8), hother⟩
  rw [h0, h1, h2, h3, h4, h5, h6, h7]

/-! ## A whole POLL_EVENT (R237) -/

/-- From the interest decision to the event, with no confirmation. -/
theorem iterate_pAck_unconfirmed {s : State} {i : BitVec 1} (hs : s.seq = .pAck i)
    (h : i = 0#1 ∨ s.byte .incoming 6 &&& 0x40#8 = 0x00#8) : State.blockStep^[3] s =
      ((s.setTxlog (s.txlog ++ [if i = 1#1 then 0x11#8 else 0x10#8])).setConfSentOk 0#1).finish
        (.code3 (if i = 1#1 then 2#3 else 3#3)) := by
  rw [Function.iterate_succ_apply', iterate_pAck hs]
  exact ncd_none (s := (s.setTxlog _).setSeq (.pNcd i)) rfl h

/-- Byte `k` of IN when every address of IN reads as the received bytes. -/
theorem byte_of_read_incoming {t : State} {n : Memory} {p : List Byte}
    (hread : ∀ a, t.mem.read a = if addr .incoming 0 ≤ a ∧ a ≤ addr .incoming 22 then
      p.getD (a - addr .incoming 0) 0x00#8 else n.read a) {k : Nat} (hk : k ≤ 22) :
    t.byte .incoming k = p.getD k 0x00#8 :=
  (hread k).trans (if_pos ⟨Nat.zero_le k, hk⟩)

theorem bit_eq_of_iff {v w : BitVec 1} (h : v = 1#1 ↔ w = 1#1) : v = w := by
  revert v w
  decide

/-- Settles O42: the assembly, then three steps. -/
theorem pollEventUnconfirmed : Obligations.PollEventUnconfirmed := by
  intro s p rest w hs he hq hlen hp hw hn
  obtain ⟨m, i, hrun, hi, hread⟩ := poll_assembles (t := s.begun (.pCls .available)) rfl hq hlen hp
  obtain rfl : w = i := bit_eq_of_iff (hw.trans (hi.trans (wants_congr rfl rfl rfl rfl _ _ _)).symm)
  refine ⟨s.begun (.pCls .available), (((((s.setMem m).setRxTimedOut 0#1).setConfSentOk 0#1).setRxq rest).setTxlog
    (s.txlog ++ [if w = 1#1 then 0x11#8 else 0x10#8])).setResult (some (.code3 (if w = 1#1 then 2#3 else 3#3))),
    whenIdle_of_idle hs, ?_, rfl, hread⟩
  have h6 := byte_of_read_incoming (t := ((s.setMem m).setRxTimedOut 0#1).setRxq rest) hread (by decide : 6 ≤ 22)
  rw [runs_alone (s := s.begun (.pCls .available)) he, show p.length + 5 = 3 + (2 + p.length) by omega,
    Function.iterate_add_apply, hrun, iterate_pAck_unconfirmed rfl (h6 ▸ hn)]
  exact congrArg _ (finish_of_idle (s := ((((s.setMem m).setRxTimedOut 0#1).setConfSentOk 0#1).setRxq rest).setTxlog
    (s.txlog ++ [if w = 1#1 then 0x11#8 else 0x10#8])) hs _)

/-- A telegram as it goes on the wire, each byte after its send tag (44_framer.md R202). -/
def withTags (l : List Byte) : List Byte :=
  (List.range l.length).flatMap fun i =>
    [if i + 1 = l.length then 0x40#8 ||| BitVec.ofNat 8 i else 0x80#8 ||| BitVec.ofNat 8 i, l.getD i 0x00#8]

theorem withTags_eight (a b c d e f g h : Byte) : withTags [a, b, c, d, e, f, g, h] = [0x80#8, a, 0x81#8, b, 0x82#8, c,
    0x83#8, d, 0x84#8, e, 0x85#8, f, 0x86#8, g, 0x47#8, h] := by
  simp [withTags, List.range_succ]

theorem tagged_buildConfirmation (s : State) : s.buildConfirmation.tagged .reply = withTags s.confirmationBytes := by
  rw [State.tagged, totalLength_buildConfirmation]
  refine List.flatMap_congr fun i hi => ?_
  have hlt : i < 8 := List.mem_range.mp hi
  rw [byte_buildConfirmation s (by omega)]
  rfl

/-- The sixteen bytes of a confirmation on the wire. -/
theorem iterate_send_confirmation {u : State} (hlength : u.totalLength .reply = 8) :
    State.blockStep^[16] (u.setSeq (.tx .reply 0 .tag .pollEvent)) =
      (u.setTxlog (u.txlog ++ u.tagged .reply)).setSeq (.conf .pollEvent) := by
  have hsend := State.send_iterate (s := u.setSeq (.tx .reply 0 .tag .pollEvent)) rfl
  rwa [show (u.setSeq (.tx .reply 0 .tag .pollEvent)).totalLength .reply = 8 from hlength] at hsend

/-- The confirmation's confirmation is consumed, the delay passes, and POLL_EVENT ends with its event. -/
theorem blockStep_pollConfirmed {s : State} {b : Byte} {q : List Byte} (hs : s.seq = .conf .pollEvent)
    (hq : s.rxq = b :: q) (hb : isConfirmation b = true) : s.blockStep.blockStep =
      ((s.setRxq q).setConfSentOk (if b = 0x8B#8 then 1#1 else 0#1)).finish (.code3 2#3) := by
  rw [conf_step hs hq hb, dly_step rfl]
  rfl

/-- The confirmation built, sent, confirmed by `b`, and the delay after it. -/
theorem iterate_pNcd_confirmed {s : State} {b : Byte} {q : List Byte} (hs : s.seq = .pNcd 1#1)
    (hn : s.byte .incoming 6 &&& 0x40#8 ≠ 0x00#8) (hq : s.rxq = b :: q) (hb : isConfirmation b = true) :
    State.blockStep^[19] s = (((((s.setMem s.buildConfirmation.mem).setTxlog
      (s.txlog ++ withTags s.confirmationBytes)).setRxq q).setConfSentOk (if b = 0x8B#8 then 1#1 else 0#1)).finish
        (.code3 2#3)) := by
  have hstep := ncd_some hs hn
  rw [buildConfirmation_frame] at hstep
  have hsend := iterate_send_confirmation (totalLength_buildConfirmation s)
  rw [tagged_buildConfirmation, buildConfirmation_frame] at hsend
  generalize s.buildConfirmation.mem = m at hstep hsend ⊢
  rw [Function.iterate_succ_apply, hstep, Function.iterate_succ_apply', Function.iterate_succ_apply', hsend]
  exact blockStep_pollConfirmed (s := ((s.setMem m).setTxlog _).setSeq (.conf .pollEvent)) rfl hq hb

/-- From the interest decision to the event, with a confirmation: what is written, and what the buffers hold then. -/
theorem iterate_pAck_confirmed {s : State} {b : Byte} {q : List Byte} (hs : s.seq = .pAck 1#1)
    (hn : s.byte .incoming 6 &&& 0x40#8 ≠ 0x00#8) (hq : s.rxq = b :: q) (hb : isConfirmation b = true) :
    ∃ m : Memory, State.blockStep^[21] s = (((((s.setMem m).setTxlog
      (s.txlog ++ 0x11#8 :: withTags s.confirmationBytes)).setRxq q).setConfSentOk
        (if b = 0x8B#8 then 1#1 else 0#1)).finish (.code3 2#3)) ∧
      (∀ k, k ≤ 22 → (s.setMem m).byte .incoming k = s.byte .incoming k) ∧
      ∀ k, k ≤ 22 → (s.setMem m).byte .reply k = s.confirmationBytes.getD k 0x00#8 := by
  obtain ⟨v, hv⟩ : ∃ v, v = (s.setTxlog (s.txlog ++ [0x11#8])).setSeq (.pNcd 1#1) := ⟨_, rfl⟩
  have hack : State.blockStep^[2] s = v := (iterate_pAck hs).trans hv.symm
  have hbytes : v.confirmationBytes = s.confirmationBytes := by rw [hv]; rfl
  have htxlog : v.txlog = s.txlog ++ [0x11#8] := by rw [hv]; rfl
  have hin (k : Nat) : v.byte .incoming k = s.byte .incoming k := by rw [hv]; rfl
  have hrun := iterate_pNcd_confirmed (s := v) (b := b) (q := q) (by rw [hv]; rfl) (by rwa [hin])
    (by rw [hv]; exact hq) hb
  refine ⟨v.buildConfirmation.mem, ?_, fun k hk => ?_, fun k hk => ?_⟩
  · rw [show 21 = 19 + 2 from rfl, Function.iterate_add_apply, hack, hrun, hbytes, htxlog, List.append_assoc,
      List.singleton_append]
    generalize v.buildConfirmation.mem = m
    apply State.ext <;> simp [State.finish, hv]
  · rw [State.byte_setMem_mem, byte_incoming_buildConfirmation v hk, hin]
  · rw [State.byte_setMem_mem, byte_buildConfirmation v hk, hbytes]

/-- The confirmation of a telegram whose bytes are `p`. -/
theorem confirmationBytes_of_bytes {t : State} {p : List Byte}
    (hin : ∀ k, k ≤ 22 → t.byte .incoming k = p.getD k 0x00#8) :
    t.confirmationBytes = [0xBC#8, (t.ownAddr >>> 8).setWidth 8, t.ownAddr.setWidth 8, p.getD 1 0x00#8, p.getD 2 0x00#8,
      0x60#8, 0xC2#8 ||| (p.getD 6 0x00#8 &&& 0x3C#8),
      0xFF#8 ^^^ 0xBC#8 ^^^ (t.ownAddr >>> 8).setWidth 8 ^^^ t.ownAddr.setWidth 8 ^^^ p.getD 1 0x00#8 ^^^
        p.getD 2 0x00#8 ^^^ 0x60#8 ^^^ (0xC2#8 ||| (p.getD 6 0x00#8 &&& 0x3C#8))] := by
  rw [State.confirmationBytes, hin 1 (by decide), hin 2 (by decide), hin 6 (by decide)]

/-- Settles O43: the assembly, the acknowledgement, the confirmation and its confirmation. -/
theorem pollEventConfirmed : Obligations.PollEventConfirmed := by
  rintro s p rest b c6 cs hs he hq hlen hp hw hn hb rfl rfl
  obtain ⟨m, i, hrun, hi, hread⟩ := poll_assembles (t := s.begun (.pCls .available)) rfl hq hlen hp
  obtain rfl : i = 1#1 := hi.mpr ((wants_congr rfl rfl rfl rfl _ _ _).mpr hw)
  obtain ⟨v, hv⟩ : ∃ v, v = ((((s.begun (.pCls .available)).setMem m).setRxTimedOut 0#1).setRxq (b :: rest)).setSeq
    (.pAck 1#1) := ⟨_, rfl⟩
  rw [← hv] at hrun
  have hin (k : Nat) (hk : k ≤ 22) : v.byte .incoming k = p.getD k 0x00#8 :=
    byte_of_read_incoming (by rw [hv]; exact hread) hk
  obtain ⟨n, hconfirmed, hincoming, hreply⟩ := iterate_pAck_confirmed (s := v) (b := b) (q := rest) (by rw [hv]; rfl)
    (by rwa [hin 6 (by decide)]) (by rw [hv]; rfl) hb
  rw [confirmationBytes_of_bytes hin, show v.ownAddr = s.ownAddr by rw [hv]; rfl] at hconfirmed hreply
  rw [withTags_eight] at hconfirmed
  refine ⟨s.begun (.pCls .available), (((((s.setMem n).setRxTimedOut 0#1).setConfSentOk
    (if b = 0x8B#8 then 1#1 else 0#1)).setRxq rest).setTxlog (s.txlog ++ 0x11#8 :: _)).setResult
    (some (.code3 2#3)), whenIdle_of_idle hs, ?_, rfl, fun k hk => (hincoming k hk).trans (hin k hk), hreply⟩
  rw [runs_alone (s := s.begun (.pCls .available)) he, show p.length + 23 = 21 + (2 + p.length) by omega,
    Function.iterate_add_apply, hrun, hconfirmed]
  refine congrArg Host.Outcome.next ?_
  apply State.ext <;> simp [State.finish, State.begun, hv, hs]

end Sys2Proof.Machine
end

section
/-! PROOFS. Faults, stuck states and hangs (60_exceptions.md R256 to R258): the wait for a confirmation lasts as long as
other bytes come, and at every position but IDLE the block moves.

The block moves for one of two reasons: a position that reads takes a byte of RXQ or a free answer of the channel, and
every other position hands over to another one. -/

namespace Sys2Proof.Machine

/-! ## The wait for a confirmation (R258, 44_framer.md R203) -/

/-- A byte that is no confirmation leaves SEQ at CONF. -/
theorem confNext_of_other {b : Byte} (hb : isConfirmation b = false) (c : Caller) : confNext c b = .conf c := by
  obtain ⟨hpos, hneg⟩ := Bool.or_eq_false_iff.mp hb
  rw [confNext, if_neg (beq_eq_false_iff_ne.mp hpos), if_neg (beq_eq_false_iff_ne.mp hneg)]

/-- The waiting block takes such a byte and is as before. -/
theorem chanDeliver_conf_other {s : State} {c : Caller} {b : Byte} (hq : s.rxq = []) (hs : s.seq = .conf c)
    (hb : isConfirmation b = false) : s.chanDeliver b = s := by
  rw [chanDeliver_waiting hq (by rw [hs]; rfl), onRead_conf_some hs, confNext_of_other hb, State.setSeq_of_eq hs]

/-- Settles O29, by induction on the bytes delivered: each is one step, after which the block waits as before. -/
theorem confirmationWaitUnbounded : Obligations.ConfirmationWaitUnbounded := by
  intro c s other
  induction other generalizing s with
  | nil => exact fun _ _ he _ => (runs_zero s).trans (congrArg _ (State.setEnv_of_eq he).symm)
  | cons b other ih =>
    intro hs hq he hother
    obtain ⟨hb, hrest⟩ := List.forall_mem_cons.mp hother
    have hstep := step_deliver he
    rw [chanDeliver_conf_other (s := s.setEnv (other.map .deliver)) hq hs hb] at hstep
    rw [List.length_cons, runs_succ hstep, ih (s.setEnv (other.map .deliver)) hs hq rfl hrest, State.setEnv_setEnv]

/-! ## The positions that read (R257, 44_framer.md R197) -/

/-- What follows the end of a read neither touches RXQ nor takes a free answer. -/
theorem onRead_channel (s : State) (o : Option Byte) :
    (s.onRead o).rxq = s.rxq ∧ (s.onRead o).choices = s.choices := by
  unfold State.onRead
  split
  next => exact ⟨rfl, rfl⟩
  next => exact ⟨rfl, rfl⟩
  next => split_ifs <;> exact ⟨rfl, rfl⟩
  next => exact ⟨rfl, rfl⟩
  next i b _ =>
    simp only [State.assemble]
    split_ifs <;> exact ⟨rfl, rfl⟩
  all_goals exact ⟨rfl, rfl⟩

/-- A bounded read takes the head of RXQ, or a free answer of the channel. -/
theorem boundedRead_ne (s : State) : s.boundedRead ≠ s := by
  intro heq
  match hq : s.rxq with
  | b :: q =>
    have hrxq : s.boundedRead.rxq = q := by
      rw [State.boundedRead, hq]
      exact (onRead_channel (s.setRxq q) (some b)).1
    rw [heq, hq] at hrxq
    exact List.cons_ne_self b q hrxq
  | [] =>
    have hchoices : s.boundedRead.choices = s.choices + 1 := by
      rw [State.boundedRead, hq]
      exact (onRead_channel (s.setChoices (s.choices + 1)) (Config.channelAnswer s.choices)).2
    rw [heq] at hchoices
    exact Nat.succ_ne_self s.choices hchoices.symm

/-! ## The positions that do not read (R257) -/

/-- The classification goes on to its next phase, to the assembly or to IDLE. -/
theorem classify_seq_ne (s : State) (k : Cls) : (s.classify k).seq ≠ .pCls k := by
  cases k with
  | available =>
    simp only [State.classify]
    split_ifs <;> nofun
  | peek =>
    simp only [State.classify]
    split
    next => nofun
    next => split_ifs <;> nofun
  | read event => nofun

theorem afterDelay_seq_ne (s : State) (a : After) : (s.afterDelay a).seq ≠ .dly a := by
  match a with
  | .acknowledged | .confirmed .host _ | .confirmed .pollEvent _ | .pollAcknowledged _ => nofun

/-- The transport step starts a transmission or ends at IDLE. -/
theorem confirm_seq_ne (s : State) (i : BitVec 1) : (s.confirm i).seq ≠ .pNcd i := by
  unfold State.confirm
  split <;> nofun

/-- A position that does not read hands over to another one; in a transmission the tag hands over to its byte, and the
byte to the next tag or to CONF. -/
theorem blockStep_seq_ne {s : State} (hs : s.seq ≠ .idle) (hr : s.seq.reads = false) : s.blockStep.seq ≠ s.seq := by
  match hq : s.seq with
  | .idle => exact absurd hq hs
  | .rd | .conf _ | .pRx _ => rw [hq] at hr; cases hr
  | .tx sel i .tag c => rw [blockStep_tag hq]; nofun
  | .tx sel i .data c =>
    simp only [State.blockStep, hq]
    split_ifs <;> nofun
  | .ackTx b => rw [blockStep_ackTx hq]; nofun
  | .dly a => rw [dly_step hq]; exact afterDelay_seq_ne s a
  | .pCls k => simp only [State.blockStep, hq]; exact classify_seq_ne s k
  | .pAck i => simp only [State.blockStep, hq]; nofun
  | .pNcd i => simp only [State.blockStep, hq]; exact confirm_seq_ne s i

/-! ## No fault, no stuck state (R256, R257) -/

/-- The block's own step moves at every position but IDLE. -/
theorem blockStep_ne {s : State} (hs : s.seq ≠ .idle) : s.blockStep ≠ s := by
  match hr : s.seq.reads with
  | true => rw [blockStep_of_reads hr]; exact boundedRead_ne s
  | false => exact fun heq => blockStep_seq_ne hs hr (congrArg State.seq heq)

/-- Only an issued word can be refused. -/
theorem step_next_of_not_issue {s : State} (h : ∀ w r, s.env ≠ .issue w :: r) : ∃ t, step s = .next t := by
  match he : s.env with
  | [] => exact ⟨_, step_nil he⟩
  | .block :: _ => exact ⟨_, step_block he⟩
  | .deliver _ :: _ => exact ⟨_, step_deliver he⟩
  | .timeout :: _ => exact ⟨_, step_timeout he⟩
  | .issue w :: r => exact absurd he (h w r)

/-- Settles O56: `Fault` has no constructor, only an issued word is refused, and the block's own step moves. -/
theorem noFaultNoStuckState : Obligations.NoFaultNoStuckState := fun _ =>
  ⟨nofun, step_next_of_not_issue, fun hs he => ⟨_, step_nil he, blockStep_ne hs⟩⟩

end Sys2Proof.Machine
end

section
/-! PROOFS. Reset (70_reset_and_hazards.md R270, R273): the base of the invariant that every step keeps
(`invariantKept`). -/

namespace Sys2Proof.Machine

/-- At IDLE only the memory and the listen count are constrained, whatever stands on the port. -/
theorem inv_of_idle {s : State} (hs : s.seq = .idle) (hm : s.mem.wf = true) (hl : s.listenCount.toNat ≤ 48) : s.Inv where
  mem := hm
  listenCount := hl
  seq := by rw [State.seqOk, hs]; trivial
  port := fun hne => absurd hs hne

/-- Settles O60: the block starts at IDLE, with no cell listed and no listen entry valid. -/
theorem resetInvariant : Obligations.ResetInvariant :=
  inv_of_idle rfl rfl (Nat.zero_le 48)

end Sys2Proof.Machine
end
